-- ==== Sys2Proof/Word.lean ====
section
/-! DEFINITION. The byte of the NV416's frames and image (R206); every other quantity of the manual is a count or a name, held as Nat, Int or an inductive type. -/

namespace Sys2Proof

/-- One byte on a control port, the inverter link, the pyrometer line or in the EEPROM. -/
abbrev Byte := BitVec 8

end Sys2Proof
end

