-- ==== Sys2Proof/Syntax.lean ====
section
/-! DEFINITION. The commands of the NV416: the ONE inductive Instr, one constructor per row of spec/opcode_table.json, and the types of its operands. -/

namespace Sys2Proof

/-- The three control ports, each with one role (R185, R190). -/
inductive Port where
  | press | feeder | supervisor
  deriving DecidableEq, Repr

/-- The inverters U1 to U4 and their channel controllers (00_scope, Line Geometry). -/
inductive Inv where
  | u1 | u2 | u3 | u4
  deriving DecidableEq, Repr

/-- The two order slots of the press (R148). -/
inductive SlotName where
  | a | b
  deriving DecidableEq, Repr

/-- The bit rates of the inverter link (R107). -/
inductive BitRate where
  | kbit57 | kbit115 | kbit230
  deriving DecidableEq, Repr

/-- The unmeasured policy (R142). -/
inductive Policy where
  | divert | deliver
  deriving DecidableEq, Repr

/-- One entry of DECLARE_SLOTS (R4). -/
inductive DeclEntry where
  | gap
  | billet (id grade : Nat)
  deriving DecidableEq, Repr

/-- One coil of the coil map: first and last position, rating in kW (R49). -/
structure CoilRange where
  first : Nat
  last : Nat
  rating : Nat
  deriving DecidableEq, Repr

/-- A whole geometry (R201): N, the coils C1 to Cn in order, the ratings of U1 to Um in kW. -/
structure Geometry where
  positions : Nat
  coils : List CoilRange
  ratings : List Nat
  deriving DecidableEq, Repr

/-- A crosspoint Ui/Cj by its numbers, as SET_REACH and RELEASE_LOCKOUT carry it. -/
structure CrosspointName where
  inverter : Nat
  coil : Nat
  deriving DecidableEq, Repr

/-- Every field of a recipe entry except its state (R30). -/
structure RecipeData where
  grade : Nat
  target : Nat
  fractions : List Nat
  soak : Nat
  maxHold : Nat
  lossRate : Nat
  windowLow : Nat
  windowHigh : Nat
  learningBlock : Bool
  correction : Int
  deriving DecidableEq, Repr

/-- The four learning settings (R32, R46): on/off, step in per mille, dead band in degrees, correction limit in per mille. -/
structure LearningSettings where
  on : Bool
  step : Nat
  deadBand : Nat
  limit : Nat
  deriving DecidableEq, Repr

/-- The settings SET_TIMERS and the TIMERS record carry (R203, R212): slice and push timeout in s, hold limit in min,
the other times in ms. -/
structure TimerSettings where
  slice : Nat
  pollPeriod : Nat
  replyTimeout : Nat
  bitRate : BitRate
  lostThreshold : Nat
  rejectLimit : Nat
  retryDelay : Nat
  stopConfirm : Nat
  feedbackTimeout : Nat
  pushTimeout : Nat
  measureTimeout : Nat
  pressSilence : Nat
  holdLimit : Nat
  deriving DecidableEq, Repr

/-- One row of the urgency map: the class of each band (R54). -/
structure BandClasses where
  band0 : Nat
  band1 : Nat
  band2 : Nat
  band3 : Nat
  deriving DecidableEq, Repr

/-- The urgency map and the band bounds (R54). -/
structure UrgencyMap where
  heating : BandClasses
  holding : BandClasses
  b1 : Nat
  b2 : Nat
  b3 : Nat
  deriving DecidableEq, Repr

/-- What the long form of SET_LINE_LIMIT carries after the line limit (R203). -/
structure LimitSettings where
  threshold : Nat
  window : Nat
  lowMark : Nat
  highMark : Nat
  autoPurge : Bool
  policy : Policy
  deriving DecidableEq, Repr

/-- The reasons of a REJECT reply (R109). -/
inductive RejectReason where
  | busy | interlock | fault
  deriving DecidableEq, Repr

/-- The output states of a STATE reply (R109). -/
inductive OutputState where
  | off | ramping | on | fault
  deriving DecidableEq, Repr

/-- The payload of a STATE reply (R109): output state, energy counter in kJ, actual power in kW, fault code. -/
structure StateReport where
  output : OutputState
  counter : Nat
  power : Nat
  faultCode : Option Nat
  deriving DecidableEq, Repr

/-- The status of a pyrometer reading (R140). -/
inductive PyroStatus where
  | valid | lowSignal | overrange
  deriving DecidableEq, Repr

/-- One character on the pyrometer line, with its framing fault if it has one (R211). -/
structure PyroChar where
  value : Byte
  framingFault : Bool
  deriving DecidableEq, Repr

/-- How far a transaction came, or how it opened (R185, R186). The command that ends it takes the chip select from where it
stands: asserted by an earlier command, or asserted within this one (log entry 46). -/
inductive Opening where
  /-- Chip select is asserted, and no more: a later command of the port ends the transaction. -/
  | asserted
  /-- The selector was shifted in whole while the status byte was shifted out, and the transaction has ended. -/
  | selector (value : Byte)
  /-- The transaction ended before the status byte was shifted whole. -/
  | unfinished
  /-- The transaction has ended, and its chip select was asserted before a hardware reset ended. -/
  | beforeReset
  deriving DecidableEq, Repr

/-- How far a FETCH transaction was clocked (R185, R186, R191): it ended before the status byte was shifted whole or was
asserted before a hardware reset ended, or it ended before the last byte of the response, or the response was shifted out
to its CRC. -/
inductive FetchExtent where
  | noStatus | partly | whole
  deriving DecidableEq, Repr

/-- The commands: one constructor per row of spec/opcode_table.json. A request carries the port it comes in on and the
operands of its payload (R207); its frame passes its check and its length is one the request takes (log entry 5). -/
inductive Instr where
  /-- `storeWrites`: how many writes the EEPROM has taken of a store the reset interrupts (R205). -/
  | hardwareReset (storeWrites : Nat)
  | lineStopAsserted
  | lineStopDeasserted
  | imageApplied
  /-- `noAck`: the byte at which the EEPROM gives no acknowledge, if that is the finding (R199). -/
  | loadFailed (noAck : Option Nat)
  | storeCompleteOk
  /-- `writes`: how many writes of the store were acknowledged before the one that was not (R205). -/
  | storeNoAck (writes : Nat)
  /-- `bytes`: what was clocked after the first byte (R187, R191); `opening`: the selector, REQUEST unless it is said
  (R186). -/
  | requestTransaction (port : Port) (bytes : List Byte) (opening : Opening := .selector 0xA5)
  | fetch (port : Port) (extent : FetchExtent)
  | readLineStatus (port : Port)
  | readTrack (port : Port) (first count : Nat)
  | readTrackField (port : Port) (field first count : Nat)
  | readOrders (port : Port)
  | readHistory (port : Port) (age : Nat)
  | ackEvents (port : Port) (kinds : List Nat)
  | setEventMask (port : Port) (kinds : List Nat)
  | demand (port : Port) (tag deadline : Nat)
  | cancelOrder (port : Port) (slot : Nat)
  | releaseOrder (port : Port) (slot : Nat)
  | pressHold (port : Port)
  | pressRun (port : Port)
  | loadBillet (port : Port) (id grade : Nat)
  | unloadCradle (port : Port)
  | readPush (port : Port)
  | pushDone (port : Port) (number : Nat)
  | pushFaultNotStarted (port : Port) (number : Nat)
  | pushFaultIncomplete (port : Port) (number : Nat)
  | start (port : Port)
  | stop (port : Port)
  | hold (port : Port)
  | resume (port : Port)
  | purge (port : Port)
  | abortPurge (port : Port)
  | drain (port : Port)
  | endDrain (port : Port)
  | resetFault (port : Port)
  | warmRestart (port : Port)
  | trackClear (port : Port)
  | declareSlots (port : Port) (first : Nat) (entries : List DeclEntry)
  | markReject (port : Port) (position id : Nat)
  | clearSuspect (port : Port) (position id : Nat)
  | writeRecipe (port : Port) (index : Nat) (data : RecipeData) (keep : Bool)
  | deleteRecipe (port : Port) (index : Nat)
  | readRecipe (port : Port) (index : Nat)
  | setLearning (port : Port) (settings : LearningSettings)
  | setLine (port : Port) (geometry : Geometry)
  | setReach (port : Port) (map : List CrosspointName)
  | setTimers (port : Port) (settings : TimerSettings)
  | setUrgencyMap (port : Port) (map : UrgencyMap)
  | setLineLimit (port : Port) (limit : Nat)
  | setLineLimitLong (port : Port) (limit : Nat) (settings : LimitSettings)
  | disableCoil (port : Port) (coil : Nat)
  | enableCoil (port : Port) (coil : Nat)
  | clearChannel (port : Port) (channel : Nat)
  | releaseLockout (port : Port) (name : CrosspointName)
  | readCoils (port : Port)
  | readChannels (port : Port)
  | readQueues (port : Port)
  | storeConfig (port : Port)
  | lineSecond
  | soakRemainingZero (position : Nat)
  | holdElapsedExceeded (position : Nat)
  | orderDeadlineExpiry (slot : SlotName)
  | sliceExpiry (channel : Inv)
  | pollPeriodExpiry
  | replyTimeout
  | quietIntervalEnd
  | retryDelayExpiry (channel : Inv)
  | rejectLimitReached (channel : Inv)
  | channelLost (channel : Inv)
  | stopConfirmExpiry (channel : Inv)
  | feedbackTimeout (inverter : Inv) (coil : Nat)
  | discoveryHoldbackExpiry (channel : Inv)
  | pushTimeout
  | measureTimeout
  | pressSilenceExpiry
  | holdLimitExpiry
  | feedbackClosed (inverter : Inv) (coil : Nat)
  | feedbackOpen (inverter : Inv) (coil : Nat)
  /-- `received`: the characters that reach the receiver while the frame is sent (R107). -/
  | sendNextTransaction (received : List Byte := [])
  /-- `unit`: the unit address of the reply frame, 1 byte (R209). -/
  | accept (unit : Nat)
  | reject (unit : Nat) (reason : RejectReason)
  | state (unit : Nat) (report : StateReport)
  /-- `frame`: the bytes of the frame as received (R209). -/
  | badReply (frame : List Byte)
  | strayReply (frame : List Byte)
  | unsolicitedReply (frame : List Byte)
  | pyrometerReading (status : PyroStatus) (temperature : Nat)
  /-- `chars`: the four characters after the preamble (R211). -/
  | pyrometerBadFrame (chars : List PyroChar)
  | pyrometerCharacterGap
  deriving DecidableEq, Repr

end Sys2Proof
end

