-- ==== Sys2Proof/Decode.lean ====
section
/-! DEFINITION. The commands a word spells by the bits of spec/opcode_table.json. -/

namespace Sys2Proof

/-- No row of spec/opcode_table.json gives bits (every row's "fields" is empty and none has "fixed"), so no word spells a
command. The request frames of R207 are decoded in Sys2Proof/Machine/Transactions.lean with the
layouts of Formats.lean, the image of R212 in Loader.lean. -/
def decodeTableWord (_nbits _w : Nat) : Option Instr := none

end Sys2Proof
end

