-- ==== Sys2Proof/Config.lean ====
section
/-! DEFINITION. The free values of the model: what the manual leaves open. -/

namespace Sys2Proof

/-- The n-th free number. The model has no clock, so the time that is left on a running timer when a read reports it
(R74, R133, R165, R184) is not determined: the read takes the next of these, reduced to the bound the manual sets
(log entry 2). No proof can see a value of it. -/
opaque Config.freeNat : Nat → Nat

/-- The bytes in which items of a response payload stand that the manual names and gives no layout for (R191, R206, R208;
log entry 6). No proof can see a byte of it. -/
opaque Config.freeBytes {α : Type} (items : α) : List Byte

end Sys2Proof
end

