-- ==== Sys2Proof/Machine/State.lean ====
section
/-! DEFINITION. The state of the NV416 as plain data, block by block (00_scope, Block Overview), and State.reset: the part right after a hardware reset. -/

namespace Sys2Proof.Machine

/-- No command of the NV416 stops the part: the manual answers a request it does not accept (REFUSED with a reason) and
discards a frame it does not take. So there is no fault (INVENTORY.md, Faults). -/
inductive Fault where
  deriving DecidableEq, Repr

/-- Why a command has no meaning in the model. -/
inductive Refusal where
  /-- Raised by the dispatcher for a command that has no meaning yet; safe. No meaning answers with it. -/
  | notModelled (mnemonic : String)
  deriving DecidableEq, Repr

/-- One item for each of U1 to U4. -/
structure PerInv (α : Type) where
  u1 : α
  u2 : α
  u3 : α
  u4 : α
  deriving DecidableEq, Repr

/-- One item for each control port. -/
structure PerPort (α : Type) where
  press : α
  feeder : α
  supervisor : α
  deriving DecidableEq, Repr

/-- A timer: stopped, or running with the duration it was started with, in the unit of its setting. -/
inductive Timer where
  | stopped
  | running (duration : Nat)
  deriving DecidableEq, Repr

/-! ## Line mode controller (R166, R167) -/

inductive ReturnMode where
  | run | drain
  deriving DecidableEq, Repr

inductive StopTarget where
  | standby | purge
  deriving DecidableEq, Repr

inductive UnconfiguredCause where
  | absent | loadError
  deriving DecidableEq, Repr

/-- The line modes of 8.1, each with the items that are present in it alone (R167). -/
inductive Mode where
  | loading
  | unconfigured (cause : UnconfiguredCause)
  | standby
  | run
  | hold (returnMode : ReturnMode)
  | drain
  | purge
  | stopping (target : StopTarget)
  | faultStop
  deriving DecidableEq, Repr

inductive HoldCause where
  | press | silent | supervisor
  deriving DecidableEq, Repr

/-- The hold-cause set (R172). -/
structure HoldCauses where
  press : Bool
  silent : Bool
  supervisor : Bool
  deriving DecidableEq, Repr

inductive StopCause where
  | lineStop | incomplete | pushTimeout | noStop | welded
  deriving DecidableEq, Repr

/-- The fault-cause set of FAULT_STOP (R177). -/
structure StopCauses where
  lineStop : Bool
  incomplete : Bool
  pushTimeout : Bool
  noStop : Bool
  welded : Bool
  deriving DecidableEq, Repr

structure LineCtl where
  mode : Mode
  holdCauses : HoldCauses
  holdTimer : Timer
  stopCauses : StopCauses
  restartMark : Bool
  deriving DecidableEq, Repr

/-! ## Lines of the part (11.6) -/

/-- The inputs and the outputs that are not derived from other state: the LINE_STOP level (asserted), the feedback inputs
of Ui/Cj (closed, entry j - 1 of inverter Ui), the DIVERT level (asserted), the pyrometer characters of the frame in
reception, its preamble first (empty while hunting, R211). -/
structure Lines where
  lineStop : Bool
  feedback : PerInv (List Bool)
  divert : Bool
  pyro : List PyroChar
  deriving DecidableEq, Repr

/-! ## Track manager (R1, R8, R12) -/

/-- The thermal states with the items present in each (R12, R17). -/
inductive Thermal where
  | heating
  | soaking (remaining : Nat)
  | ready (held : Nat)
  | overheld (held : Nat)
  deriving DecidableEq, Repr

inductive Suspect where
  | declared | energyUnknown
  deriving DecidableEq, Repr

/-- The billet record (R12); its demand is derived (R26). -/
structure Billet where
  id : Nat
  grade : Nat
  recipe : Nat
  charge : Option Nat
  thermal : Thermal
  delivered : Nat
  target : Option Nat
  loss : Nat
  suspect : Option Suspect
  reject : Bool
  deriving DecidableEq, Repr

inductive Slot where
  | gap
  | undeclared
  | billet (record : Billet)
  deriving DecidableEq, Repr

/-- The pending billet of the entry cradle (R8). -/
structure PendingBillet where
  id : Nat
  grade : Nat
  recipe : Nat
  deriving DecidableEq, Repr

/-- `slots` holds position 1 first; `unattributed` holds one counter per coil, C1 first (R24). -/
structure TrackMgr where
  geometry : Option Geometry
  slots : List Slot
  verified : Bool
  cradle : Option PendingBillet
  chargeCounter : Nat
  unattributed : List Nat
  lineSecond : Timer
  deriving DecidableEq, Repr

/-! ## Recipe table (R30, R31, R32) -/

inductive RecipeState where
  | empty | stored | modified | invalid
  deriving DecidableEq, Repr

structure Recipe where
  state : RecipeState
  data : RecipeData
  deriving DecidableEq, Repr

/-- The 48 entries, index 0 first, and the learning settings. -/
structure RecipeTable where
  entries : List Recipe
  learning : LearningSettings
  deriving DecidableEq, Repr

/-! ## Power allocator (R51, R53, R55, R61, R69) -/

inductive Group where
  | heating | holding
  deriving DecidableEq, Repr

/-- The lead billet of a coil: its position and group (R27). -/
structure Lead where
  position : Nat
  group : Group
  deriving DecidableEq, Repr

inductive CoilState where
  | unpowered
  | queued (cls : Nat)
  | assigned (channel : Inv)
  | disabled
  | locked
  deriving DecidableEq, Repr

/-- A coil as the allocator holds it: state, disable setting, and the demand and lead last reported (R53). -/
structure Coil where
  state : CoilState
  disable : Bool
  demand : Nat
  lead : Option Lead
  deriving DecidableEq, Repr

/-- The request queues Q0 to Q3, each from head to tail (R55). -/
structure Queues where
  q0 : List Nat
  q1 : List Nat
  q2 : List Nat
  q3 : List Nat
  deriving DecidableEq, Repr

/-- A grant from the moment it is made until its coil leaves ASSIGNED (R61, R67, R74); its setpoint is the grant
setpoint of its channel. -/
structure Grant where
  coil : Nat
  number : Nat
  released : Bool
  deriving DecidableEq, Repr

structure Allocator where
  coils : List Coil
  queues : Queues
  grants : PerInv (Option Grant)
  grantCounter : Nat
  effective : Nat
  pendingLimit : Option Nat
  slice : PerInv Timer
  deriving DecidableEq, Repr

/-! ## Channel controllers (R75) -/

inductive FaultCause where
  | linkLost | rejected | inverterFault | noStop
  deriving DecidableEq, Repr

inductive LockedFrom where
  | idle
  | unreached
  | faulted (cause : FaultCause)
  deriving DecidableEq, Repr

inductive ChannelState where
  | absent
  | unreached
  | idle
  | closing
  | starting
  | energized
  | stopping
  | opening
  | faulted (cause : FaultCause)
  | locked (from_ : LockedFrom)
  deriving DecidableEq, Repr

/-- The pending causes other than WELDED. -/
inductive PendingCause where
  | linkLost | rejected | inverterFault
  deriving DecidableEq, Repr

/-- The commands of the inverter link (R108). -/
inductive LinkCommand where
  | setOutput (setpoint : Nat)
  | stopOutput
  | readState
  | clearFault
  deriving DecidableEq, Repr

/-- A command that waits for its retry delay (R84), outside the link queue. -/
structure RetryWait where
  command : LinkCommand
  delay : Nat
  deriving DecidableEq, Repr

/-- The channel record (R75). The pending cause WELDED is held beside the other causes, because a lockout released in
time leaves the other cause in force (R91, R98, R99); `lateCause` is a cause taken while WELDED was held, which decides
nothing unless WELDED is dropped (R77, R98, R99; log entry 42). `sent` says whether the commanded SET_OUTPUT was sent at
least once (R81), and `timedOut` whether a sending of it timed out (R80, which asks in STARTING alone). -/
structure Channel where
  state : ChannelState
  pendingCause : Option PendingCause
  pendingWelded : Bool
  coil : Option Nat
  grantSetpoint : Nat
  accepted : Nat
  commanded : Option Nat
  deferred : Option Nat
  release : Bool
  lastOutput : Option OutputState
  faultCode : Option Nat
  power : Nat
  baseline : Option Nat
  timeouts : Nat
  rejects : Nat
  clearing : Bool
  stopConfirm : Timer
  retry : Option RetryWait
  sent : Bool
  timedOut : Bool
  lateCause : Option PendingCause
  deriving DecidableEq, Repr

/-! ## Matrix controller (R92) -/

inductive CrosspointState where
  | opened
  | closing
  | closed
  | opening
  | failOpen
  | failClosed
  deriving DecidableEq, Repr

/-- A crosspoint record; the feedback as last read is the input of `Lines.feedback`. -/
structure Crosspoint where
  inverter : Inv
  coil : Nat
  drive : Bool
  state : CrosspointState
  timer : Timer
  drop : Bool
  deriving DecidableEq, Repr

/-! ## Link controller (R110, R113, R115, R116, R118, R119) -/

inductive Purpose where
  | control | poll | clear | discovery | startStop
  deriving DecidableEq, Repr

/-- A command with the channel that owns it and its purpose (R108). -/
structure LinkEntry where
  owner : Inv
  command : LinkCommand
  purpose : Purpose
  deriving DecidableEq, Repr

/-- The transaction in flight: its command, the reply timeout its reply timer runs for, the bit rate it started with,
and whether its outcome is to be discarded (R107, R110, R121, R122). -/
structure Transaction where
  entry : LinkEntry
  replyTimeout : Nat
  bitRate : BitRate
  discard : Bool
  deriving DecidableEq, Repr

/-- How a channel awaits a DISCOVERY read: not at all, behind its start-up stop, in the queue, in flight, or served by
its clear sequence (R119, R120). -/
inductive Discovery where
  | none | wanted | queued | inFlight | byClear
  deriving DecidableEq, Repr

/-- A discovery round in progress: the channels it still awaits, and whether START awaits its end (R119, R170). -/
structure Round where
  waiting : List Inv
  forStart : Bool
  deriving DecidableEq, Repr

/-- `driver` is the line driver, the DE output: on only while a command frame is sent (R107). -/
structure Link where
  queue : List LinkEntry
  inFlight : Option Transaction
  quiet : Timer
  pollTimer : Timer
  pollDue : PerInv Bool
  pointer : Nat
  startMark : PerInv Bool
  held : PerInv (Option LinkEntry)
  holdback : PerInv Timer
  discovery : PerInv Discovery
  rounds : List Round
  driver : Bool
  deriving DecidableEq, Repr

/-! ## Push controller (R125) -/

inductive PushKind where
  | billet | gap
  deriving DecidableEq, Repr

inductive Origin where
  | fill | divert | serve | drain | purge
  deriving DecidableEq, Repr

/-- The order slot a SERVE push serves, with its tag. -/
structure Served where
  slot : SlotName
  tag : Nat
  deriving DecidableEq, Repr

structure PushRecord where
  number : Nat
  kind : PushKind
  origin : Origin
  served : Option Served
  chargedId : Option Nat
  deriving DecidableEq, Repr

/-- The billet in a MEASURING station with the order slot and the push that brought it (R139, R144). -/
structure Measuring where
  billet : Billet
  served : Served
  push : Nat
  deriving DecidableEq, Repr

inductive DivertReason where
  | cold | hot | unmeasured | rejectBound | underheated | lineFault
  deriving DecidableEq, Repr

/-- The outcome of a classification (R144). -/
inductive ClassOutcome where
  | delivered
  | diverted (reason : DivertReason)
  deriving DecidableEq, Repr

/-- A history entry (R146). -/
structure HistoryEntry where
  id : Nat
  grade : Nat
  charge : Nat
  outcome : ClassOutcome
  temperature : Option Nat
  tag : Option Nat
  deriving DecidableEq, Repr

/-- `station` is none while the station is EMPTY; `history` holds the oldest entry first. -/
structure PushCtl where
  record : Option PushRecord
  counter : Nat
  late : Nat
  timer : Timer
  cradleWait : Bool
  station : Option Measuring
  measureTimer : Timer
  history : List HistoryEntry
  classCount : Nat
  deriving DecidableEq, Repr

/-! ## Order manager (R148) -/

inductive CancelReason where
  | press | hold | mode | restart
  deriving DecidableEq, Repr

/-- The result of a FILLED slot (R148, R154). -/
structure OrderResult where
  id : Nat
  grade : Nat
  charge : Nat
  push : Nat
  temperature : Option Nat
  deriving DecidableEq, Repr

/-- An order slot with the items present in each state (R148): tag, acceptance order (1 older, 2 newer), deadline
remaining, served push number, result, cancel reason. -/
inductive OrderSlot where
  | free
  | pending (tag rank : Nat) (deadline : Option Nat)
  | serving (tag rank : Nat) (deadline : Option Nat) (push : Nat)
  | filled (tag rank : Nat) (result : OrderResult)
  | cancelled (tag rank : Nat) (reason : CancelReason)
  | expired (tag rank : Nat)
  deriving DecidableEq, Repr

inductive Supply where
  | short | ok
  deriving DecidableEq, Repr

structure OrderMgr where
  a : OrderSlot
  b : OrderSlot
  supply : Supply
  silence : Timer
  deriving DecidableEq, Repr

/-! ## Settings -/

structure Settings where
  timers : TimerSettings
  urgency : UrgencyMap
  limits : LimitSettings
  deriving DecidableEq, Repr

/-! ## Control ports (R185) -/

inductive EventKind where
  | modeChanged | orderChanged | supplyChanged | pushOrdered | cradleWanted | trackUnverified
  | channelFault | crosspointFault | suspectMarked | holdLimit | learningLimit | configDone | historyAdded
  deriving DecidableEq, Repr

/-- A set of event kinds: the flags that are set, or the kinds that are masked, of one port (R194, R196). -/
structure EventSet where
  modeChanged : Bool
  orderChanged : Bool
  supplyChanged : Bool
  pushOrdered : Bool
  cradleWanted : Bool
  trackUnverified : Bool
  channelFault : Bool
  crosspointFault : Bool
  suspectMarked : Bool
  holdLimit : Bool
  learningLimit : Bool
  configDone : Bool
  historyAdded : Bool
  deriving DecidableEq, Repr

/-- The refusal reasons (R190, R207). -/
inductive Reason where
  | notPermitted | badFrame | unknownRequest | badLength | outOfRange | wrongMode | busy
  | noSlot | duplicate | inUse | notFound | notUsable | tooLate
  deriving DecidableEq, Repr

inductive ConfigResult where
  | none | ok | noAck
  deriving DecidableEq, Repr

/-- The items of READ_LINE_STATUS (R184). -/
structure LineStatus where
  mode : Mode
  restartMark : Bool
  holdCauses : HoldCauses
  holdRemaining : Nat
  autoPurge : Bool
  stopCauses : StopCauses
  lineStop : Bool
  divert : Bool
  verified : Bool
  billets : Nat
  cradleHolds : Bool
  chargeCounter : Nat
  pushNumber : Nat
  idle : Nat
  working : Nat
  faulted : Nat
  unreached : Nat
  locked : Nat
  deriving DecidableEq, Repr

/-- A slot record of READ_TRACK (R192). -/
structure SlotRecord where
  position : Nat
  content : Slot
  coil : Nat
  demand : Nat
  deriving DecidableEq, Repr

/-- One coil's record of READ_COILS (R73). -/
structure CoilReport where
  range : CoilRange
  state : CoilState
  disable : Bool
  demand : Nat
  leadPosition : Nat
  group : Option Group
  cls : Option Nat
  usable : Nat
  unattributed : Nat
  deriving DecidableEq, Repr

/-- One crosspoint's record of READ_CHANNELS (R105). -/
structure CrosspointReport where
  inverter : Inv
  coil : Nat
  state : CrosspointState
  drive : Bool
  feedback : Bool
  drop : Bool
  deriving DecidableEq, Repr

/-- A grant as READ_QUEUES lists it (R74). -/
structure GrantReport where
  channel : Inv
  coil : Nat
  number : Nat
  setpoint : Nat
  released : Bool
  sliceRemaining : Nat
  deriving DecidableEq, Repr

/-- The payload of a DATA response, item by item in the order of the rule that gives it (log entry 6). -/
inductive Payload where
  | lineStatus (status : LineStatus)
  | track (verified : Bool) (positions : Nat) (cradle : Option PendingBillet) (slots : List SlotRecord)
  | trackField (verified : Bool) (field : Nat) (contents : List Nat) (values : List Nat)
  | orders (a b : OrderSlot) (supply : Supply) (count window low high setting remaining : Nat) (press silent : Bool)
  | history (held count : Nat) (entries : List HistoryEntry)
  | events (before after mask : EventSet) (config : Option ConfigResult)
  | order (slot : SlotName) (rank : Nat)
  | push (record : Option PushRecord) (remaining : Nat) (measuring cradleWait : Bool) (late : Nat)
  | recipe (index : Nat) (entry : Recipe) (useCount target : Nat) (learning : LearningSettings)
  | coils (effective pendingLimit : Nat) (pendingHeld : Bool) (committed headroom threshold : Nat) (records : List CoilReport)
  | channels (records : PerInv Channel) (crosspoints : List CrosspointReport)
  | queues (q3 q2 q1 q0 : List Nat) (grants : List GrantReport)
  deriving DecidableEq, Repr

/-- A response of kind ACCEPTED, REFUSED or DATA (R185, R191). -/
inductive ResponseBody where
  | accepted
  | refused (reason : Reason)
  | data (payload : Payload)
  deriving DecidableEq, Repr

/-- The held response with its echoed request code. -/
structure Response where
  code : Byte
  body : ResponseBody
  deriving DecidableEq, Repr

/-- The port state with the item present in it (R185): the request in hand, or the held response. -/
inductive PortState where
  | idle
  | processing (code : Byte)
  | ready (response : Response)
  deriving DecidableEq, Repr

/-- What a FETCH shifts out after the status byte: kind NONE with an echoed code, or the held response (R191). -/
inductive ShiftedResponse where
  | none (code : Byte)
  | held (response : Response)
  deriving DecidableEq, Repr

/-- What a transaction shifted out: its status byte, and for a FETCH the response. -/
structure Shifted where
  status : Byte
  response : Option ShiftedResponse
  deriving DecidableEq, Repr

/-- The chip select of a port, with what the port took at its assertion (R186, R191): the status byte, and the port state by
which a FETCH acts. A chip select asserted before a hardware reset ended is ignored up to its deassertion (R185). -/
inductive Selection where
  | released
  | selected (status : Byte) (start : PortState)
  | ignored
  deriving DecidableEq, Repr

/-- The port record (R185) with the port's chip select; `shifted` is the model's own record of the port's output (log
entry 7). -/
structure PortRec where
  state : PortState
  overrun : Bool
  flags : EventSet
  mask : EventSet
  select : Selection
  shifted : Option Shifted
  deriving DecidableEq, Repr

/-! ## Configuration loader (R198, R204) -/

inductive LoadState where
  | reading | applied | failed
  deriving DecidableEq, Repr

/-- The store state; WRITING holds the captured image (image staging). -/
inductive StoreState where
  | idle
  | writing (image : List Byte)
  deriving DecidableEq, Repr

/-- `eeprom` lists the bytes of the EEPROM that do not read FFh, by rising address (log entry 8). -/
structure Loader where
  load : LoadState
  store : StoreState
  eeprom : List Host.Cell
  result : ConfigResult
  deriving DecidableEq, Repr

/-- The state of the part, and the queue of the commands that wait for it. -/
structure State where
  pending : List Instr
  line : LineCtl
  lines : Lines
  track : TrackMgr
  recipes : RecipeTable
  alloc : Allocator
  channels : PerInv Channel
  matrix : List Crosspoint
  link : Link
  push : PushCtl
  orders : OrderMgr
  settings : Settings
  ports : PerPort PortRec
  loader : Loader
  free : Nat
  deriving DecidableEq, Repr

/-! ## The values after a hardware reset -/

/-- The same item for every inverter. -/
def PerInv.all {α : Type} (x : α) : PerInv α := ⟨x, x, x, x⟩

/-- The empty set of event kinds. -/
def EventSet.none : EventSet :=
  ⟨false, false, false, false, false, false, false, false, false, false, false, false, false⟩

/-- An EMPTY entry reads 0 in every field (R30). -/
def RecipeData.zero : RecipeData :=
  { grade := 0, target := 0, fractions := List.replicate 12 0, soak := 0, maxHold := 0, lossRate := 0,
    windowLow := 0, windowHigh := 0, learningBlock := false, correction := 0 }

def Recipe.empty : Recipe := { state := .empty, data := RecipeData.zero }

/-- The column "After hardware reset" of R75. -/
def Channel.reset : Channel :=
  { state := .absent, pendingCause := none, pendingWelded := false, coil := none, grantSetpoint := 0,
    accepted := 0, commanded := none, deferred := none, release := false, lastOutput := none,
    faultCode := none, power := 0, baseline := none, timeouts := 0, rejects := 0, clearing := false,
    stopConfirm := .stopped, retry := none, sent := false, timedOut := false, lateCause := none }

/-- The defaults of R64, R107, R115, R106, R125, R164 and R167. -/
def TimerSettings.default : TimerSettings :=
  { slice := 20, pollPeriod := 200, replyTimeout := 20, bitRate := .kbit115, lostThreshold := 3,
    rejectLimit := 4, retryDelay := 100, stopConfirm := 2000, feedbackTimeout := 150, pushTimeout := 10,
    measureTimeout := 500, pressSilence := 3000, holdLimit := 30 }

/-- The default map and bounds of R54. -/
def UrgencyMap.default : UrgencyMap :=
  { heating := ⟨3, 2, 1, 1⟩, holding := ⟨2, 0, 0, 0⟩, b1 := 2, b2 := 5, b3 := 9 }

/-- The defaults of R53, R125, R161 and R167. -/
def LimitSettings.default : LimitSettings :=
  { threshold := 50, window := 3, lowMark := 1, highMark := 2, autoPurge := false, policy := .divert }

/-- The defaults of R32. -/
def LearningSettings.default : LearningSettings := { on := false, step := 5, deadBand := 10, limit := 80 }

def Settings.default : Settings :=
  { timers := TimerSettings.default, urgency := UrgencyMap.default, limits := LimitSettings.default }

/-- The column "After hardware reset" of R185; the level of chip select is the choice of log entry 10. -/
def PortRec.reset : PortRec :=
  { state := .idle, overrun := false, flags := EventSet.none, mask := EventSet.none, select := .released, shifted := none }

/-- R167. -/
def LineCtl.reset : LineCtl :=
  { mode := .loading, holdCauses := ⟨false, false, false⟩, holdTimer := .stopped,
    stopCauses := ⟨false, false, false, false, false⟩, restartMark := false }

/-- R2, R8, R14, R16, R24. -/
def TrackMgr.reset : TrackMgr :=
  { geometry := none, slots := [], verified := false, cradle := none, chargeCounter := 1,
    unattributed := [], lineSecond := .running 1 }

/-- R32. -/
def RecipeTable.reset : RecipeTable :=
  { entries := List.replicate 48 Recipe.empty, learning := LearningSettings.default }

/-- R49, R55, R61, R64, R69. -/
def Allocator.reset : Allocator :=
  { coils := [], queues := ⟨[], [], [], []⟩, grants := PerInv.all none, grantCounter := 1, effective := 0,
    pendingLimit := none, slice := PerInv.all .stopped }

/-- R107, R113, R115, R116, R118, R122. -/
def Link.reset : Link :=
  { queue := [], inFlight := none, quiet := .stopped, pollTimer := .stopped, pollDue := PerInv.all false,
    pointer := 0, startMark := PerInv.all true, held := PerInv.all none, holdback := PerInv.all .stopped,
    discovery := PerInv.all .none, rounds := [], driver := false }

/-- R125. -/
def PushCtl.reset : PushCtl :=
  { record := none, counter := 1, late := 0, timer := .stopped, cradleWait := false, station := none,
    measureTimer := .stopped, history := [], classCount := 0 }

/-- R148, R161, R164. -/
def OrderMgr.reset : OrderMgr := { a := .free, b := .free, supply := .short, silence := .stopped }

/-- The part right after a hardware reset (R180): every block at its hardware-reset values, the load beginning. The input
levels, the EEPROM's contents, the model's queue and its free-value counter are the choices of log entries 1, 2, 8, 10. -/
def State.reset : State :=
  { pending := []
    line := LineCtl.reset
    lines := { lineStop := false, feedback := PerInv.all (List.replicate 12 false), divert := true, pyro := [] }
    track := TrackMgr.reset
    recipes := RecipeTable.reset
    alloc := Allocator.reset
    channels := PerInv.all Channel.reset
    matrix := []
    link := Link.reset
    push := PushCtl.reset
    orders := OrderMgr.reset
    settings := Settings.default
    ports := ⟨PortRec.reset, PortRec.reset, PortRec.reset⟩
    loader := { load := .reading, store := .idle, eeprom := [], result := .none }
    free := 0 }

end Sys2Proof.Machine
end

