-- ==== Sys2Proof/Machine/Ops.lean ====
section
/-! DEFINITION. The named operations over the state: inverters, ports, numbered lists, geometry, the EEPROM's bytes, and the event in progress (Ev) with the updates of each block. -/

namespace Sys2Proof

/-- The inverter number, which is its unit address on the link (00_scope). -/
def Inv.num : Inv → Nat
  | .u1 => 1
  | .u2 => 2
  | .u3 => 3
  | .u4 => 4

/-- n, the number of coils. -/
def Geometry.n (g : Geometry) : Nat := g.coils.length

/-- m, the number of inverters. -/
def Geometry.m (g : Geometry) : Nat := g.ratings.length

/-- A coil covers every position from its first to its last (R49). -/
def CoilRange.covers (c : CoilRange) (p : Nat) : Bool := c.first ≤ p && p ≤ c.last

end Sys2Proof

namespace Sys2Proof.Machine

/-! ## Items per inverter and per port -/

/-- U1 to U4 in ascending number. -/
def inverters : List Inv := [.u1, .u2, .u3, .u4]

/-- The inverter with a number. -/
def invOfNat : Nat → Option Inv
  | 1 => some .u1
  | 2 => some .u2
  | 3 => some .u3
  | 4 => some .u4
  | _ => none

def PerInv.get {α : Type} (f : PerInv α) : Inv → α
  | .u1 => f.u1
  | .u2 => f.u2
  | .u3 => f.u3
  | .u4 => f.u4

def PerInv.set {α : Type} (f : PerInv α) (u : Inv) (x : α) : PerInv α :=
  match u with
  | .u1 => { f with u1 := x }
  | .u2 => { f with u2 := x }
  | .u3 => { f with u3 := x }
  | .u4 => { f with u4 := x }

def PerPort.get {α : Type} (f : PerPort α) : Port → α
  | .press => f.press
  | .feeder => f.feeder
  | .supervisor => f.supervisor

def PerPort.set {α : Type} (f : PerPort α) (p : Port) (x : α) : PerPort α :=
  match p with
  | .press => { f with press := x }
  | .feeder => { f with feeder := x }
  | .supervisor => { f with supervisor := x }

/-! ## Lists numbered from 1 (positions, coils) -/

/-- Item number `k` of a list numbered from 1. -/
def at1 {α : Type} (l : List α) (k : Nat) : Option α := if k = 0 then none else l[k - 1]?

/-- The list with item number `k` changed. -/
def mod1 {α : Type} (l : List α) (k : Nat) (f : α → α) : List α := if k = 0 then l else l.modify (k - 1) f

/-- The list with every item changed by its number, `k` being the number of the first. -/
def mapNumbered {α β : Type} (f : Nat → α → β) : Nat → List α → List β
  | _, [] => []
  | k, x :: xs => f k x :: mapNumbered f (k + 1) xs

/-- The numbers n, n - 1, ..., 1. -/
def descending : Nat → List Nat
  | 0 => []
  | n + 1 => (n + 1) :: descending n

/-! ## Geometry (R1, R49) -/

/-- N, 0 while no geometry is in force. -/
def State.positions (s : State) : Nat := (s.track.geometry.map Geometry.positions).getD 0

/-- n, 0 while no geometry is in force. -/
def State.coilCount (s : State) : Nat := (s.track.geometry.map Geometry.n).getD 0

/-- m, 0 while no geometry is in force. -/
def State.inverterCount (s : State) : Nat := (s.track.geometry.map Geometry.m).getD 0

def State.coilRange (s : State) (j : Nat) : Option CoilRange := s.track.geometry.bind fun g => at1 g.coils j

/-- The number of the first coil of a list, numbered from `j`, that covers a position; 0 when none does (R49). -/
def coveringFrom (p : Nat) : Nat → List CoilRange → Nat
  | _, [] => 0
  | j, c :: cs => if c.covers p then j else coveringFrom p (j + 1) cs

/-- The coil that covers a position, 0 for an uncovered one. -/
def State.coilOf (s : State) (p : Nat) : Nat :=
  match s.track.geometry with
  | none => 0
  | some g => coveringFrom p 1 g.coils

/-- The rating of coil Cj in kW (R49). -/
def State.coilRating (s : State) (j : Nat) : Nat := ((s.coilRange j).map CoilRange.rating).getD 0

/-- The rating of inverter Ui in kW (R49). -/
def State.inverterRating (s : State) (u : Inv) : Nat :=
  (s.track.geometry.bind fun g => at1 g.ratings (Inv.num u)).getD 0

/-- 5% of a rating, rounded up to the next multiple of 10 kW (R49). -/
def minimumSetpoint (rating : Nat) : Nat := (rating + 199) / 200 * 10

/-! ## Modes (8.1) -/

/-- RUN, HOLD and DRAIN, the modes in which coils are heated. -/
def Mode.heating : Mode → Bool
  | .run | .hold _ | .drain => true
  | _ => false

/-- LOADING or UNCONFIGURED. -/
def Mode.noLine : Mode → Bool
  | .loading | .unconfigured _ => true
  | _ => false

/-! ## Channels (R62, R76, R115, R166) -/

def State.channel (s : State) (u : Inv) : Channel := s.channels.get u

/-- CLOSING, STARTING, ENERGIZED, STOPPING or OPENING (R166). -/
def ChannelState.working : ChannelState → Bool
  | .closing | .starting | .energized | .stopping | .opening => true
  | _ => false

/-- ENERGIZED, STOPPING or FAULTED(NO_STOP) (R115). -/
def ChannelState.pollable : ChannelState → Bool
  | .energized | .stopping | .faulted .noStop => true
  | _ => false

def ChannelState.isFaulted : ChannelState → Bool
  | .faulted _ => true
  | _ => false

def ChannelState.isLocked : ChannelState → Bool
  | .locked _ => true
  | _ => false

/-- Entering FAULTED or LOCKED raises CHANNEL_FAULT (R77). -/
def ChannelState.alarms (c : ChannelState) : Bool := c.isFaulted || c.isLocked

/-- The value the allocator counts for a channel (R62). -/
def Channel.counted (c : Channel) : Nat :=
  match c.state with
  | .closing => c.grantSetpoint
  | .starting | .energized | .stopping => max c.accepted (c.commanded.getD 0)
  | .faulted .noStop => c.accepted
  | _ => 0

/-- Committed power (R62). -/
def State.committed (s : State) : Nat :=
  s.channels.u1.counted + s.channels.u2.counted + s.channels.u3.counted + s.channels.u4.counted

/-- Headroom (R63). -/
def State.headroom (s : State) : Nat := s.alloc.effective - s.committed

def State.anyWorking (s : State) : Bool := inverters.any fun u => (s.channel u).state.working

def State.anyNoStop (s : State) : Bool := inverters.any fun u => (s.channel u).state == .faulted .noStop

/-! ## Crosspoints (R50, R92) -/

def State.crosspoint (s : State) (u : Inv) (j : Nat) : Option Crosspoint :=
  s.matrix.find? fun x => x.inverter == u && x.coil == j

def CrosspointState.failed : CrosspointState → Bool
  | .failOpen | .failClosed => true
  | _ => false

/-- A crosspoint is usable while it exists and is neither FAIL_OPEN nor FAIL_CLOSED (R50). -/
def State.usable (s : State) (u : Inv) (j : Nat) : Bool :=
  match s.crosspoint u j with
  | some x => !x.state.failed
  | none => false

/-- A coil is reachable while at least one of its crosspoints is usable (R50). -/
def State.reachable (s : State) (j : Nat) : Bool := inverters.any fun u => s.usable u j

/-- The feedback input of Ui/Cj reads closed. -/
def State.feedbackClosed (s : State) (u : Inv) (j : Nat) : Bool := (at1 (s.lines.feedback.get u) j).getD false

/-- A drive of the row of Ui is closed. -/
def State.rowDriveClosed (s : State) (u : Inv) : Bool := s.matrix.any fun x => x.inverter == u && x.drive

/-- A drive of the column of Cj is closed. -/
def State.columnDriveClosed (s : State) (j : Nat) : Bool := s.matrix.any fun x => x.coil == j && x.drive

/-! ## The EEPROM's bytes (R198, R199) -/

/-- The byte at an address; an address not listed reads FFh, as an erased EEPROM does (R199). -/
def readByte : List Host.Cell → Nat → Byte
  | [], _ => 0xFF
  | (k, v) :: rest, a => if k = a then v else readByte rest a

/-- Write one byte and keep the canonical form: addresses rising, no cell FFh. -/
def writeByte : List Host.Cell → Nat → Byte → List Host.Cell
  | [], a, v => if v = 0xFF then [] else [(a, v)]
  | (k, w) :: rest, a, v =>
    if a < k then (if v = 0xFF then (k, w) :: rest else (a, v) :: (k, w) :: rest)
    else if a = k then (if v = 0xFF then rest else (a, v) :: rest)
    else (k, w) :: writeByte rest a v

/-- Every address is at least `lo`, addresses rise strictly, and no cell is FFh. -/
def memoryWfFrom : Nat → List Host.Cell → Bool
  | _, [] => true
  | lo, (k, v) :: rest => decide (lo ≤ k) && v != 0xFF && memoryWfFrom (k + 1) rest

/-- The canonical form of the EEPROM's contents. -/
def Memory.wf (m : List Host.Cell) : Bool := memoryWfFrom 0 m

/-! ## The event in progress

Every command is one event. The allocation pass (R59) and the push evaluation (R127) "follow that event's other
changes": an event notes that they are due and they are made once, at its end. -/

structure Ev where
  s : State
  passDue : Bool
  evalDue : Bool
  deriving DecidableEq, Repr

def Ev.of (s : State) : Ev := { s := s, passDue := false, evalDue := false }

def Ev.duePass (e : Ev) : Ev := { e with passDue := true }

def Ev.dueEval (e : Ev) : Ev := { e with evalDue := true }

def Ev.modLine (e : Ev) (f : LineCtl → LineCtl) : Ev := { e with s := { e.s with line := f e.s.line } }

def Ev.modLines (e : Ev) (f : Lines → Lines) : Ev := { e with s := { e.s with lines := f e.s.lines } }

def Ev.modTrack (e : Ev) (f : TrackMgr → TrackMgr) : Ev := { e with s := { e.s with track := f e.s.track } }

def Ev.modRecipes (e : Ev) (f : RecipeTable → RecipeTable) : Ev :=
  { e with s := { e.s with recipes := f e.s.recipes } }

def Ev.modAlloc (e : Ev) (f : Allocator → Allocator) : Ev := { e with s := { e.s with alloc := f e.s.alloc } }

def Ev.modMatrix (e : Ev) (f : List Crosspoint → List Crosspoint) : Ev :=
  { e with s := { e.s with matrix := f e.s.matrix } }

def Ev.modLink (e : Ev) (f : Link → Link) : Ev := { e with s := { e.s with link := f e.s.link } }

def Ev.modPush (e : Ev) (f : PushCtl → PushCtl) : Ev := { e with s := { e.s with push := f e.s.push } }

def Ev.modOrders (e : Ev) (f : OrderMgr → OrderMgr) : Ev := { e with s := { e.s with orders := f e.s.orders } }

def Ev.modSettings (e : Ev) (f : Settings → Settings) : Ev :=
  { e with s := { e.s with settings := f e.s.settings } }

def Ev.modLoader (e : Ev) (f : Loader → Loader) : Ev := { e with s := { e.s with loader := f e.s.loader } }

def Ev.modPort (e : Ev) (p : Port) (f : PortRec → PortRec) : Ev :=
  { e with s := { e.s with ports := e.s.ports.set p (f (e.s.ports.get p)) } }

def Ev.modChannel (e : Ev) (u : Inv) (f : Channel → Channel) : Ev :=
  { e with s := { e.s with channels := e.s.channels.set u (f (e.s.channels.get u)) } }

/-- Apply an operation for each item of a list, in order. -/
def Ev.forEach {α : Type} (xs : List α) (f : α → Ev → Ev) (e : Ev) : Ev := xs.foldl (fun acc x => f x acc) e

/-- A setting of 0 stops a timer that a setting of 0 turns off (R164); any other starts it. -/
def timerFrom (duration : Nat) : Timer := if duration = 0 then .stopped else .running duration

def Timer.isRunning : Timer → Bool
  | .stopped => false
  | .running _ => true

/-- What a read reports as the time remaining on a timer: 0 when it is stopped, and otherwise the free number of the
given index, within the duration the timer was started with (log entry 2). -/
def Timer.remaining (t : Timer) (index : Nat) : Nat :=
  match t with
  | .stopped => 0
  | .running d => Config.freeNat index % (d + 1)

/-- A counter that wraps from `top` to 1 (charge counter R14, grant counter R61, push counter R126). -/
def nextFrom1 (top c : Nat) : Nat := if c = top then 1 else c + 1

/-- 4 294 967 295. -/
def top32 : Nat := 4294967295

end Sys2Proof.Machine
end

