-- ==== Sys2Proof/Machine/Flags.lean ====
section
/-! DEFINITION. Event flags, masks and ATTN of the control ports (R194 to R196), their codes (R207), and the status byte (R186). -/

namespace Sys2Proof

/-- The port identity of the status byte (R207). -/
def Port.identity : Port → Nat
  | .press => 1
  | .feeder => 2
  | .supervisor => 3

end Sys2Proof

namespace Sys2Proof.Machine

def EventSet.has (f : EventSet) : EventKind → Bool
  | .modeChanged => f.modeChanged
  | .orderChanged => f.orderChanged
  | .supplyChanged => f.supplyChanged
  | .pushOrdered => f.pushOrdered
  | .cradleWanted => f.cradleWanted
  | .trackUnverified => f.trackUnverified
  | .channelFault => f.channelFault
  | .crosspointFault => f.crosspointFault
  | .suspectMarked => f.suspectMarked
  | .holdLimit => f.holdLimit
  | .learningLimit => f.learningLimit
  | .configDone => f.configDone
  | .historyAdded => f.historyAdded

def EventSet.put (f : EventSet) (k : EventKind) (b : Bool) : EventSet :=
  match k with
  | .modeChanged => { f with modeChanged := b }
  | .orderChanged => { f with orderChanged := b }
  | .supplyChanged => { f with supplyChanged := b }
  | .pushOrdered => { f with pushOrdered := b }
  | .cradleWanted => { f with cradleWanted := b }
  | .trackUnverified => { f with trackUnverified := b }
  | .channelFault => { f with channelFault := b }
  | .crosspointFault => { f with crosspointFault := b }
  | .suspectMarked => { f with suspectMarked := b }
  | .holdLimit => { f with holdLimit := b }
  | .learningLimit => { f with learningLimit := b }
  | .configDone => { f with configDone := b }
  | .historyAdded => { f with historyAdded := b }

/-- Every event kind. -/
def eventKinds : List EventKind :=
  [.modeChanged, .orderChanged, .supplyChanged, .pushOrdered, .cradleWanted, .trackUnverified, .channelFault,
    .crosspointFault, .suspectMarked, .holdLimit, .learningLimit, .configDone, .historyAdded]

/-- The event kind a code names on a port (R207); none for a code that names no kind of the port. -/
def kindOfCode : Port → Nat → Option EventKind
  | .press, 1 => some .modeChanged
  | .press, 2 => some .orderChanged
  | .press, 3 => some .supplyChanged
  | .feeder, 1 => some .modeChanged
  | .feeder, 2 => some .pushOrdered
  | .feeder, 3 => some .cradleWanted
  | .supervisor, 1 => some .modeChanged
  | .supervisor, 2 => some .trackUnverified
  | .supervisor, 3 => some .channelFault
  | .supervisor, 4 => some .crosspointFault
  | .supervisor, 5 => some .suspectMarked
  | .supervisor, 6 => some .holdLimit
  | .supervisor, 7 => some .learningLimit
  | .supervisor, 8 => some .configDone
  | .supervisor, 9 => some .historyAdded
  | _, _ => none

/-- The kinds a list of codes names on a port, or none when a code names no kind of it (R195, R196). -/
def kindsOfCodes (p : Port) : List Nat → Option (List EventKind)
  | [] => some []
  | c :: cs =>
    match kindOfCode p c, kindsOfCodes p cs with
    | some k, some ks => some (k :: ks)
    | _, _ => none

/-- A set with each kind of a list put in (true) or out (false). -/
def EventSet.putAll (f : EventSet) (ks : List EventKind) (b : Bool) : EventSet :=
  ks.foldl (fun acc k => acc.put k b) f

/-- The ATTN line of a port: at least one flag is set and unmasked (R196). -/
def PortRec.attn (r : PortRec) : Bool := eventKinds.any fun k => r.flags.has k && !r.mask.has k

def PortState.code : PortState → Nat
  | .idle => 0
  | .processing _ => 1
  | .ready _ => 2

def bit (b : Bool) (k : Nat) : Nat := if b then 2 ^ k else 0

/-- The status byte (R186, R207): port state in bits 1..0, ATTN pending in bit 2, OVERRUN in bit 3, port identity in
bits 5..4. -/
def PortRec.statusByte (r : PortRec) (p : Port) : Byte :=
  BitVec.ofNat 8 (r.state.code + bit r.attn 2 + bit r.overrun 3 + 16 * Port.identity p)

/-- Raise an event on a port: set its flag (R194). -/
def Ev.raise (e : Ev) (p : Port) (k : EventKind) : Ev := e.modPort p fun r => { r with flags := r.flags.put k true }

/-- MODE_CHANGED is raised on the three ports together (R166). -/
def Ev.raiseModeChanged (e : Ev) : Ev :=
  ((e.raise .press .modeChanged).raise .feeder .modeChanged).raise .supervisor .modeChanged

end Sys2Proof.Machine
end

