-- ==== Sys2Proof/Machine/Operands.lean ====
section
/-! DEFINITION. The ranges of operands and settings, checked alike by the requests and by the configuration load (R30, R33, R46, R199, R201 to R203). -/

namespace Sys2Proof.Machine

def inRange (lo hi x : Nat) : Bool := decide (lo ≤ x) && decide (x ≤ hi)

/-- A billet id: 1..4 294 967 295 (R8). -/
def idOk (id : Nat) : Bool := inRange 1 4294967295 id

/-- A grade code: 1..65534 (R8). -/
def gradeOk (grade : Nat) : Bool := inRange 1 65534 grade

/-- A rating: 50..2000 kW in 10 kW steps (R49). -/
def ratingOk (kw : Nat) : Bool := inRange 50 2000 kw && kw % 10 == 0

/-- Every range lies in `lo`..`top` with first ≤ last, and the ranges ascend without overlap (R49, R201). -/
def rangesOk (top : Nat) : Nat → List CoilRange → Bool
  | _, [] => true
  | lo, c :: cs =>
    decide (lo ≤ c.first) && decide (c.first ≤ c.last) && decide (c.last ≤ top) && ratingOk c.rating &&
      rangesOk top (c.last + 1) cs

/-- The first check of SET_LINE (R201). -/
def geometryOk (g : Geometry) : Bool :=
  inRange 8 32 g.positions && inRange 1 12 g.n && inRange 1 4 g.m && rangesOk g.positions 1 g.coils &&
    g.ratings.all ratingOk

def noDuplicates {α : Type} [BEq α] : List α → Bool
  | [] => true
  | x :: xs => !xs.contains x && noDuplicates xs

/-- The range check of SET_REACH against n and m (R202). -/
def reachOk (n m : Nat) (map : List CrosspointName) : Bool :=
  decide (map.length ≤ 48) && map.all (fun x => inRange 1 m x.inverter && inRange 1 n x.coil) &&
    noDuplicates map

/-- The ranges of the settings of SET_TIMERS (R64, R84, R88, R90, R94, R107, R115, R125, R164, R167, R203). -/
def timersOk (t : TimerSettings) : Bool :=
  inRange 1 120 t.slice && inRange 50 1000 t.pollPeriod && inRange 5 50 t.replyTimeout &&
    inRange 1 8 t.lostThreshold && inRange 1 8 t.rejectLimit && inRange 20 1000 t.retryDelay &&
    inRange 100 5000 t.stopConfirm && inRange 20 500 t.feedbackTimeout && inRange 1 30 t.pushTimeout &&
    inRange 50 5000 t.measureTimeout && (t.pressSilence == 0 || inRange 500 10000 t.pressSilence) &&
    inRange 1 240 t.holdLimit

def bandsOk (b : BandClasses) : Bool :=
  decide (b.band0 ≤ 3) && decide (b.band1 ≤ 3) && decide (b.band2 ≤ 3) && decide (b.band3 ≤ 3)

/-- Classes 0..3, and b1 < b2 < b3 within 0..31 (R54, R203). -/
def urgencyOk (u : UrgencyMap) : Bool :=
  bandsOk u.heating && bandsOk u.holding && decide (u.b1 < u.b2) && decide (u.b2 < u.b3) && decide (u.b3 ≤ 31)

/-- A line limit: 0..8000 kW (R69), a multiple of 10 kW (R49; log entry 23). -/
def lineLimitOk (kw : Nat) : Bool := inRange 0 8000 kw && kw % 10 == 0

/-- Threshold 10..5000 (R53), 0 ≤ low < high ≤ M ≤ 8 with M at least 1 (R161). -/
def limitsOk (l : LimitSettings) : Bool :=
  inRange 10 5000 l.threshold && inRange 1 8 l.window && decide (l.lowMark < l.highMark) &&
    decide (l.highMark ≤ l.window)

/-- Step 1..20, dead band 0..50, limit 0..150 (R46). -/
def learningOk (l : LearningSettings) : Bool :=
  inRange 1 20 l.step && inRange 0 50 l.deadBand && inRange 0 150 l.limit

/-- The correction lies within ± a limit (R45). -/
def correctionOk (limit : Nat) (c : Int) : Bool := decide (-(limit : Int) ≤ c) && decide (c ≤ (limit : Int))

/-- Every field of a recipe lies in its range, and window low is less than window high (R30, R35). -/
def recipeOk (limit : Nat) (r : RecipeData) : Bool :=
  gradeOk r.grade && inRange 100 60000 r.target && r.fractions.length == 12 &&
    r.fractions.all (fun f => decide (f ≤ 100)) && inRange 0 600 r.soak && inRange 10 3600 r.maxHold &&
    inRange 0 500 r.lossRate && inRange 600 1350 r.windowLow && inRange 600 1350 r.windowHigh &&
    decide (r.windowLow < r.windowHigh) && correctionOk limit r.correction

/-- The fractions do not decrease and the last one is 100. -/
def risesTo100 : List Nat → Bool
  | [] => false
  | [x] => x == 100
  | x :: y :: rest => decide (x ≤ y) && risesTo100 (y :: rest)

/-- The fraction check against a geometry of n coils (R33). -/
def fractionCheck (n : Nat) (fractions : List Nat) : Bool := risesTo100 (fractions.take n)

/-- The code 0 A, 1 B of an order slot (R207). -/
def slotOfCode : Nat → Option SlotName
  | 0 => some .a
  | 1 => some .b
  | _ => none

/-- The channel numbers 1..4 within m; the part of a range check that reads the geometry passes while none is in force
(R189). -/
def State.inverterNumberOk (s : State) (i : Nat) : Bool :=
  (s.track.geometry.map fun g => inRange 1 g.m i).getD true

/-- 1..n, passing while no geometry is in force (R189). -/
def State.coilNumberOk (s : State) (j : Nat) : Bool := (s.track.geometry.map fun g => inRange 1 g.n j).getD true

/-- 1..N, passing while no geometry is in force (R189). -/
def State.positionOk (s : State) (p : Nat) : Bool :=
  (s.track.geometry.map fun g => inRange 1 g.positions p).getD true

end Sys2Proof.Machine
end

