-- ==== Sys2Proof/Machine/Link.lean ====
section
/-! DEFINITION. The link queue, the poll marks and the choice of the next transaction (R113 to R116, R118). -/

namespace Sys2Proof.Machine

def LinkCommand.isSetOutput : LinkCommand → Bool
  | .setOutput _ => true
  | _ => false

def LinkEntry.isStartStop (x : LinkEntry) : Bool := x.purpose == .startStop

/-- The start-up stop of a channel waits in the link queue (R118). -/
def State.startStopQueued (s : State) (u : Inv) : Bool :=
  s.link.queue.any fun x => x.owner == u && x.isStartStop

/-- The queue with a channel's entry put at the tail in place of the entry it has (R113). -/
def putAtTail (q : List LinkEntry) (x : LinkEntry) : List LinkEntry :=
  q.filter (fun y => y.owner != x.owner) ++ [x]

/-- A command joins the link queue (R113); behind a waiting start-up stop of its channel it is held (R118). A command that
takes the place of a clear sequence's leaves clear in progress as it is (log entry 40). -/
def Ev.enqueue (e : Ev) (x : LinkEntry) : Ev :=
  if e.s.startStopQueued x.owner && !x.isStartStop then
    e.modLink fun l => { l with held := l.held.set x.owner (some x) }
  else e.modLink fun l => { l with queue := putAtTail l.queue x }

/-- Withdraw the commands of a channel that wait in the queue or are held, save its start-up stop (R81, R83, R91). -/
def Ev.withdraw (e : Ev) (u : Inv) : Ev :=
  e.modLink fun l =>
    { l with queue := l.queue.filter (fun x => x.owner != u || x.isStartStop), held := l.held.set u none }

/-- Withdraw the command of a clear sequence that waits in the queue or is held (R91, R100). -/
def Ev.withdrawClear (e : Ev) (u : Inv) : Ev :=
  e.modLink fun l =>
    { l with
      queue := l.queue.filter (fun x => x.owner != u || x.purpose != .clear)
      held := l.held.set u ((l.held.get u).filter fun x => x.purpose != .clear) }

/-- Withdraw every command of a channel, its start-up stop too (R121). -/
def Ev.withdrawAll (e : Ev) (u : Inv) : Ev :=
  e.modLink fun l => { l with queue := l.queue.filter (fun x => x.owner != u), held := l.held.set u none }

/-- A command of a channel is in the link queue or held, and is a SET_OUTPUT. -/
def State.setOutputWaits (s : State) (u : Inv) : Bool :=
  (s.link.queue.any fun x => x.owner == u && x.command.isSetOutput) ||
    (s.link.held.get u).any (fun x => x.command.isSetOutput) ||
    (s.channel u).retry.any (fun r => r.command.isSetOutput)

/-- A SET_OUTPUT of a channel is in flight. -/
def State.setOutputInFlight (s : State) (u : Inv) : Bool :=
  s.link.inFlight.any fun t => t.entry.owner == u && t.entry.command.isSetOutput

/-- The link is free: no transaction in flight, no quiet interval (R114). -/
def State.linkFree (s : State) : Bool := s.link.inFlight.isNone && s.link.quiet == .stopped

/-- The driver is switched on and a transaction starts with the reply timeout and the bit rate in force (R107, R110,
R121). -/
def Ev.transmit (e : Ev) (x : LinkEntry) : Ev :=
  let t := e.s.settings.timers
  e.modLink fun l =>
    { l with
      driver := true
      inFlight := some { entry := x, replyTimeout := t.replyTimeout, bitRate := t.bitRate, discard := false } }

/-- The line is released at the end of the frame's last character (R107). -/
def Ev.releaseLine (e : Ev) : Ev := e.modLink fun l => { l with driver := false }

/-- The units in the order the rotation visits them after the unit polled last, wrapping to U1 (R116). -/
def rotation : Nat → List Inv
  | 1 => [.u2, .u3, .u4, .u1]
  | 2 => [.u3, .u4, .u1, .u2]
  | 3 => [.u4, .u1, .u2, .u3]
  | _ => [.u1, .u2, .u3, .u4]

/-- The due channel whose poll is sent next (R116). -/
def State.nextPoll (s : State) : Option Inv := (rotation s.link.pointer).find? fun u => s.link.pollDue.get u

/-- A SET_OUTPUT is sent only in RUN, HOLD or DRAIN on a verified track (R81). -/
def State.setOutputAllowed (s : State) : Bool := s.line.mode.heating && s.track.verified

/-- The marks a sending leaves: a SET_OUTPUT was sent (R81), a DISCOVERY read is in flight (R119), the command held behind
a start-up stop joins the queue at the tail (R118). -/
def Ev.noteSent (e : Ev) (x : LinkEntry) : Ev :=
  match x.purpose, x.command with
  | .startStop, _ =>
    match e.s.link.held.get x.owner with
    | some y => (e.modLink fun l => { l with held := l.held.set x.owner none }).enqueue y
    | none => e
  | .discovery, _ => e.modLink fun l => { l with discovery := l.discovery.set x.owner .inFlight }
  | _, .setOutput _ => e.modChannel x.owner fun c => { c with sent := true }
  | _, _ => e

end Sys2Proof.Machine
end

