-- ==== Sys2Proof/Machine/Channels.lean ====
section
/-! DEFINITION. What a channel and its crosspoint do in any of their sequences: entering a state, closing and opening a drive, entering STOPPING and OPENING, the release sequence, the withdrawal of setpoint commands (R76 to R96). -/

namespace Sys2Proof.Machine

/-- A channel takes a state. Entering FAULTED or LOCKED raises CHANNEL_FAULT (R77); a channel that stops being pollable
loses its due poll (R115); an IDLE channel brings an allocation pass (R59). -/
def Ev.enterState (e : Ev) (u : Inv) (st : ChannelState) : Ev :=
  let e1 := e.modChannel u fun c => { c with state := st }
  let e2 := if st.pollable then e1 else e1.modLink fun l => { l with pollDue := l.pollDue.set u false }
  let e3 := if st.alarms then e2.raise .supervisor .channelFault else e2
  if st = .idle then e3.duePass else e3

def Ev.modCrosspoint (e : Ev) (u : Inv) (j : Nat) (f : Crosspoint → Crosspoint) : Ev :=
  e.modMatrix fun xs => xs.map fun x => if x.inverter == u && x.coil == j then f x else x

/-- A drive is closed: the crosspoint enters CLOSING and its feedback timer starts (R94). -/
def Ev.closeDrive (e : Ev) (u : Inv) (j : Nat) : Ev :=
  let t := e.s.settings.timers.feedbackTimeout
  e.modCrosspoint u j fun x => { x with drive := true, state := .closing, timer := .running t }

/-- A drive is opened: the crosspoint enters OPENING and its feedback timer starts (R96). -/
def Ev.openDrive (e : Ev) (u : Inv) (j : Nat) : Ev :=
  let t := e.s.settings.timers.feedbackTimeout
  e.modCrosspoint u j fun x => { x with drive := false, state := .opening, timer := .running t }

/-- The slice timer of a channel stops (R64, R67). -/
def Ev.stopSlice (e : Ev) (u : Inv) : Ev := e.modAlloc fun a => { a with slice := a.slice.set u .stopped }

/-- Entering STOPPING (R86): the commanded and deferred setpoints are abandoned, STOP_OUTPUT takes the place of any
command of the channel that still waits, and the stop-confirm timer starts. It is entered from STARTING and ENERGIZED; R86
names a clear sequence too, for which R101 gives no such outcome (DESIGN CHOICE, log entry 54). -/
def Ev.enterStopping (e : Ev) (u : Inv) : Ev :=
  let t := e.s.settings.timers.stopConfirm
  let e1 := (e.withdraw u).modChannel u fun c =>
    { c with
      commanded := none, deferred := none, retry := none, sent := false, timedOut := false
      stopConfirm := .running t }
  ((e1.enterState u .stopping).stopSlice u).enqueue { owner := u, command := .stopOutput, purpose := .control }

/-- Entering OPENING with the drive of the assigned coil opened (R79, R81, R86, R89, R91, R101): the stop-confirm timer
stops, and the commands of the channel that still wait are withdrawn (log entry 21). -/
def Ev.enterOpening (e : Ev) (u : Inv) : Ev :=
  let e1 := (e.withdraw u).modChannel u fun c =>
    { c with
      commanded := none, deferred := none, retry := none, sent := false, timedOut := false
      stopConfirm := .stopped, clearing := false }
  let e2 := match (e1.s.channel u).coil with
    | some j => e1.openDrive u j
    | none => e1
  (e2.enterState u .opening).stopSlice u

/-- The release sequence from the state a channel is in (R85). -/
def Ev.disconnect (e : Ev) (u : Inv) : Ev :=
  match (e.s.channel u).state with
  | .closing => e.modChannel u fun c => { c with release := true, deferred := none }
  | .starting => e.modChannel u fun c => { c with release := true, deferred := none }
  | .energized =>
    if e.s.setOutputInFlight u then e.modChannel u fun c => { c with release := true, deferred := none }
    else e.enterStopping u
  | _ => e

/-- Withdraw a SET_OUTPUT that waits in the queue or for its retry delay (R81). A STARTING channel with no attempt sent
opens its drive at once; one with an attempt sent takes the setpoint as accepted and enters STOPPING. -/
def Ev.withdrawSetOutput (e : Ev) (u : Inv) : Ev :=
  if e.s.setOutputWaits u then
    let c := e.s.channel u
    let e1 := (e.withdraw u).modChannel u fun c => { c with commanded := none, deferred := none, retry := none }
    match c.state with
    | .starting =>
      if c.sent then
        (e1.modChannel u fun x => { x with accepted := c.commanded.getD x.accepted }).enterStopping u
      else e1.enterOpening u
    | _ => e1
  else e

/-- Queue a SET_OUTPUT, which becomes the commanded setpoint (R79, R83). -/
def Ev.commandSetOutput (e : Ev) (u : Inv) (kw : Nat) : Ev :=
  (e.modChannel u fun c => { c with commanded := some kw, sent := false, timedOut := false }).enqueue
    { owner := u, command := .setOutput kw, purpose := .control }

/-- After an ACCEPT: the deferred setpoint is queued if it differs from the accepted one, and dropped otherwise (R83). -/
def Ev.takeDeferred (e : Ev) (u : Inv) : Ev :=
  let c := e.s.channel u
  let e1 := e.modChannel u fun c => { c with deferred := none }
  match c.deferred with
  | some d => if d = c.accepted then e1 else e1.commandSetOutput u d
  | none => e1

/-- The state a channel takes when its crosspoint is confirmed open: LOCKED(WELDED), FAULTED or IDLE by its pending cause
(R77, R87, R98). -/
def Channel.afterOpen (c : Channel) : ChannelState :=
  let cause : Option FaultCause := c.pendingCause.map fun
    | .linkLost => .linkLost
    | .rejected => .rejected
    | .inverterFault => .inverterFault
  if c.pendingWelded then .locked (cause.elim LockedFrom.idle LockedFrom.faulted)
  else cause.elim ChannelState.idle ChannelState.faulted

/-- The items of a channel that end with its connection (R87). -/
def Channel.disconnected (c : Channel) : Channel :=
  { c with
    coil := none, grantSetpoint := 0, accepted := 0, commanded := none, deferred := none, release := false
    pendingCause := none, pendingWelded := false, sent := false, timedOut := false, lateCause := none }

def LockedFrom.toState : LockedFrom → ChannelState
  | .idle => .idle
  | .unreached => .unreached
  | .faulted c => .faulted c

/-- A setpoint whose first SET_OUTPUT timed out may have reached the inverter: a channel that leaves STARTING for STOPPING
after such a timeout takes it as accepted (R80). -/
def Channel.withTimedOut (c : Channel) : Channel :=
  if c.state == .starting && c.timedOut then { c with accepted := c.commanded.getD c.accepted } else c

/-- A cause is recorded unless another one is held (R77); behind a WELDED that is held alone it is kept apart, for the
case that WELDED is dropped (R98, R99; log entry 42). -/
def Channel.noteCause (x : PendingCause) (c : Channel) : Channel :=
  if c.pendingWelded && c.pendingCause.isNone then { c with lateCause := c.lateCause <|> some x }
  else { c with pendingCause := c.pendingCause <|> some x }

/-- WELDED is dropped: the cause taken while it was held is in force, as it would have been without it (R99). -/
def Channel.dropWelded (c : Channel) : Channel :=
  { c with pendingWelded := false, pendingCause := c.pendingCause <|> c.lateCause, lateCause := none }

/-- Record a pending cause other than WELDED, in place of another one (R77). -/
def Ev.setPending (e : Ev) (u : Inv) (c : PendingCause) : Ev :=
  e.modChannel u fun x => { x with pendingCause := some c }

end Sys2Proof.Machine
end

