-- ==== Sys2Proof/Machine/Recipes.lean ====
section
/-! DEFINITION. The recipe table: look-up, use, the effective target and correction learning (R30 to R48). -/

namespace Sys2Proof.Machine

/-- The entry at an index; beyond the table it reads EMPTY. -/
def State.recipe (s : State) (i : Nat) : Recipe := (s.recipes.entries[i]?).getD Recipe.empty

/-- The fields of the entry a billet refers to. -/
def State.recipeOf (s : State) (b : Billet) : RecipeData := (s.recipe b.recipe).data

/-- The index of the defined entry that holds a grade, from index `i` on (R34). -/
def findGradeFrom (grade : Nat) : Nat → List Recipe → Option Nat
  | _, [] => none
  | i, r :: rs => if r.state != .empty && r.data.grade == grade then some i else findGradeFrom grade (i + 1) rs

def State.findGrade (s : State) (grade : Nat) : Option Nat := findGradeFrom grade 0 s.recipes.entries

def Slot.refersTo (i : Nat) : Slot → Bool
  | .billet b => b.recipe == i
  | _ => false

/-- How many billets refer to an entry: in the track, in the cradle, in a MEASURING station (R34). -/
def State.useCount (s : State) (i : Nat) : Nat :=
  s.track.slots.countP (Slot.refersTo i) +
    (if s.track.cradle.any (fun c => c.recipe == i) then 1 else 0) +
    (if s.push.station.any (fun m => m.billet.recipe == i) then 1 else 0)

/-- The target energy times (1000 plus the correction), divided by 1000, rounded to the nearest kilojoule, a half up
(R42). -/
def effectiveTarget (r : RecipeData) : Nat := (r.target * (1000 + r.correction).toNat + 500) / 1000

def setEntry (t : RecipeTable) (i : Nat) (f : Recipe → Recipe) : RecipeTable :=
  { t with entries := t.entries.modify i f }

/-- A value clamped to ± a limit (R45). -/
def clampCorrection (limit : Nat) (c : Int) : Int := max (-(limit : Int)) (min c (limit : Int))

/-- The correction after a learning update for a reading of `t` degrees (R44, R45): none when the deviation lies within
the dead band, so that the correction is left as it was. -/
def learnedCorrection (l : LearningSettings) (r : RecipeData) (t : Nat) : Option Int :=
  let deviation : Int := (t : Int) - (((r.windowLow + r.windowHigh) / 2 : Nat) : Int)
  if deviation > (l.deadBand : Int) then some (clampCorrection l.limit (r.correction - (l.step : Int)))
  else if deviation < -(l.deadBand : Int) then some (clampCorrection l.limit (r.correction + (l.step : Int)))
  else none

/-- A learning update that leaves the correction at ± the limit raises LEARNING_LIMIT (R45); one that moves it back from
the limit, or leaves it as it was within the dead band, raises nothing. -/
def Ev.learn (e : Ev) (i t : Nat) : Ev :=
  let l := e.s.recipes.learning
  let r := (e.s.recipe i).data
  if l.on && !r.learningBlock then
    match learnedCorrection l r t with
    | none => e
    | some c =>
      let e1 := e.modRecipes fun tab =>
        setEntry tab i fun x => { x with data := { x.data with correction := c } }
      if c = (l.limit : Int) ∨ c = -(l.limit : Int) then e1.raise .supervisor .learningLimit else e1
  else e

/-- What applying a geometry of n coils does to an entry (R31, R39). -/
def Recipe.underGeometry (n : Nat) (r : Recipe) : Recipe :=
  match r.state with
  | .empty => r
  | .stored | .modified => if fractionCheck n r.data.fractions then r else { r with state := .invalid }
  | .invalid => if fractionCheck n r.data.fractions then { r with state := .modified } else r

/-- A MODIFIED entry becomes STORED when a store completes with result OK (R41). -/
def Recipe.afterStore (r : Recipe) : Recipe :=
  if r.state = .modified then { r with state := .stored } else r

/-- The clamp of SET_LEARNING on a defined entry (R46). -/
def Recipe.clampTo (limit : Nat) (r : Recipe) : Recipe :=
  if r.state = .empty then r
  else { r with data := { r.data with correction := clampCorrection limit r.data.correction } }

end Sys2Proof.Machine
end

