-- ==== Sys2Proof/Machine/Track.lean ====
section
/-! DEFINITION. The track as data: thermal states, demand, energy attribution, aging, the shift (R1 to R29). What the changes cause in other blocks is in TrackEvents.lean. -/

namespace Sys2Proof.Machine

/-- 1 000 000 kJ, where delivered energy and accrued loss saturate (R12). -/
def energyTop : Nat := 1000000

def Billet.isOverheld (b : Billet) : Bool :=
  match b.thermal with
  | .overheld _ => true
  | _ => false

def Billet.isReady (b : Billet) : Bool :=
  match b.thermal with
  | .ready _ => true
  | _ => false

def Billet.marked (b : Billet) : Bool := b.suspect.isSome || b.reject

/-- A mark, or OVERHELD (R12). -/
def Billet.rejectBound (b : Billet) : Bool := b.marked || b.isOverheld

/-- READY and without a mark (R128, R139, R161). -/
def Billet.servable (b : Billet) : Bool := b.isReady && !b.marked

def Slot.isBillet : Slot → Bool
  | .billet _ => true
  | _ => false

def Slot.isUndeclared : Slot → Bool
  | .undeclared => true
  | _ => false

def Slot.hasId (id : Nat) : Slot → Bool
  | .billet b => b.id == id
  | _ => false

/-- The number of BILLET slots. -/
def State.billets (s : State) : Nat := s.track.slots.countP Slot.isBillet

/-- What stands at position N. -/
def State.exitSlot (s : State) : Option Slot := s.track.slots.getLast?

/-! ## Demand (R26, R27) -/

/-- The ceiling of a billet in coil Cj (R26). -/
def Billet.ceiling (b : Billet) (r : RecipeData) (j : Nat) : Nat :=
  b.target.getD 0 * (at1 r.fractions j).getD 0 / 100 + b.loss

/-- The demand of a billet at a position (R26). -/
def State.billetDemand (s : State) (p : Nat) (b : Billet) : Nat :=
  if !s.track.verified || b.rejectBound || s.coilOf p == 0 then 0
  else b.ceiling (s.recipeOf b) (s.coilOf p) - b.delivered

/-- The billets of the positions of a coil with their positions, entrance first. -/
def billetsFrom (c : CoilRange) : Nat → List Slot → List (Nat × Billet)
  | _, [] => []
  | p, .billet b :: rest => if c.covers p then (p, b) :: billetsFrom c (p + 1) rest else billetsFrom c (p + 1) rest
  | p, _ :: rest => billetsFrom c (p + 1) rest

def State.coilBillets (s : State) (j : Nat) : List (Nat × Billet) :=
  match s.coilRange j with
  | none => []
  | some c => billetsFrom c 1 s.track.slots

/-- The demand of a coil: the sum over its billets (R27). -/
def State.coilDemand (s : State) (j : Nat) : Nat :=
  ((s.coilBillets j).map fun pb => s.billetDemand pb.1 pb.2).sum

def Billet.group (b : Billet) : Group :=
  match b.thermal with
  | .heating => .heating
  | _ => .holding

/-- The lead billet: the exit-most billet of the coil whose demand is greater than 0 (R27). -/
def State.coilLead (s : State) (j : Nat) : Option Lead :=
  (((s.coilBillets j).filter fun pb => decide (0 < s.billetDemand pb.1 pb.2)).getLast?).map fun pb =>
    { position := pb.1, group := pb.2.group }

/-! ## Energy (R15, R23) -/

/-- A share of energy added to a billet's delivered energy, which saturates (R23); a HEATING billet that has reached its
effective target becomes SOAKING, or READY with soak time 0 (R15). -/
def Billet.receive (b : Billet) (soak share : Nat) : Billet :=
  let d := min energyTop (b.delivered + share)
  let b1 := { b with delivered := d }
  match b.thermal, b.target with
  | .heating, some t =>
    if t ≤ d then
      if 0 < soak then { b1 with thermal := .soaking soak, loss := 0 } else { b1 with thermal := .ready 0, loss := 0 }
    else b1
  | _, _ => b1

/-- How many billets of a coil stand nearer the exit than a position. -/
def exitward (bs : List (Nat × Billet)) (p : Nat) : Nat := bs.countP fun pb => decide (p < pb.1)

/-- Share d kJ among the billets of coil Cj: the equal share rounded down, and 1 kJ more to each of the r billets nearest
the exit (R23). -/
def State.shareEnergy (s : State) (j d : Nat) : List Slot :=
  let bs := s.coilBillets j
  let k := bs.length
  match s.coilRange j with
  | none => s.track.slots
  | some c =>
    mapNumbered (fun p x =>
      match x with
      | .billet b =>
        if c.covers p then
          .billet (b.receive (s.recipeOf b).soak (d / k + if exitward bs p < d % k then 1 else 0))
        else x
      | _ => x) 1 s.track.slots

/-! ## Aging (R17) -/

/-- One line second of a billet. -/
def Billet.age (b : Billet) (r : RecipeData) : Billet :=
  match b.thermal with
  | .heating => b
  | .soaking k =>
    { b with loss := min energyTop (b.loss + r.lossRate)
             thermal := if k ≤ 1 then .ready 0 else .soaking (k - 1) }
  | .ready h =>
    let h1 := min 65535 (h + 1)
    { b with loss := min energyTop (b.loss + r.lossRate)
             thermal := if r.maxHold < h1 then .overheld h1 else .ready h1 }
  | .overheld h => { b with thermal := .overheld (min 65535 (h + 1)) }

def State.agedSlots (s : State) : List Slot :=
  s.track.slots.map fun x =>
    match x with
    | .billet b => .billet (b.age (s.recipeOf b))
    | _ => x

/-! ## Charging and the shift (R6, R13, R14, R42) -/

/-- A billet charged from the cradle (R13). -/
def chargedBillet (c : PendingBillet) (number target : Nat) : Billet :=
  { id := c.id, grade := c.grade, recipe := c.recipe, charge := some number, thermal := .heating, delivered := 0,
    target := some target, loss := 0, suspect := none, reject := false }

/-- A record made by DECLARE_SLOTS (R5). -/
def declaredBillet (id grade recipe : Nat) : Billet :=
  { id := id, grade := grade, recipe := recipe, charge := none, thermal := .heating, delivered := 0, target := none,
    loss := 0, suspect := some .declared, reject := false }

/-- Charge the declared records of a list given exit first: each without a number takes the next one, and its effective
target from its recipe (R6, R42). Answers the list, exit first, and the counter. -/
def chargeExitFirst (s : State) : Nat → List Slot → List Slot × Nat
  | c, [] => ([], c)
  | c, .billet b :: rest =>
    if b.charge.isNone then
      let r := chargeExitFirst s (nextFrom1 top32 c) rest
      (.billet { b with charge := some c, target := some (effectiveTarget (s.recipeOf b)) } :: r.1, r.2)
    else
      let r := chargeExitFirst s c rest
      (.billet b :: r.1, r.2)
  | c, x :: rest =>
    let r := chargeExitFirst s c rest
    (x :: r.1, r.2)

/-- The new content of position 1 at a PUSH_DONE (R13). -/
def State.enteringSlot (s : State) (kind : PushKind) : Slot :=
  match kind, s.track.cradle with
  | .billet, some c =>
    .billet (chargedBillet c s.track.chargeCounter (effectiveTarget (s.recipe c.recipe).data))
  | _, _ => .gap

/-- The track after a PUSH_DONE: every content one position on, position 1 refilled, the cradle emptied and the charge
counter advanced for kind BILLET (R13, R14). -/
def State.shiftedTrack (s : State) (kind : PushKind) : TrackMgr :=
  let charges := kind == .billet && s.track.cradle.isSome
  { s.track with
    slots := s.enteringSlot kind :: s.track.slots.dropLast
    cradle := if kind == .billet then none else s.track.cradle
    chargeCounter := if charges then nextFrom1 top32 s.track.chargeCounter else s.track.chargeCounter }

/-! ## What a track-change signal depends on (R29) -/

inductive ThermalKind where
  | heating | soaking | ready | overheld
  deriving DecidableEq, Repr

def Thermal.kind : Thermal → ThermalKind
  | .heating => .heating
  | .soaking _ => .soaking
  | .ready _ => .ready
  | .overheld _ => .overheld

/-- The thermal state and the marks of a billet's slot. -/
def Slot.signature : Slot → Option (ThermalKind × Option Suspect × Bool)
  | .billet b => some (b.thermal.kind, b.suspect, b.reject)
  | _ => none

/-- Some slot changed its thermal state or its marks. -/
def signalNeeded (before after : List Slot) : Bool := before.map Slot.signature != after.map Slot.signature

end Sys2Proof.Machine
end

