-- ==== Sys2Proof/Machine/Alloc.lean ====
section
/-! DEFINITION. The power allocator: classes, queues, releases, coil reports, the allocation pass, raises and the reduction plan (R49 to R72). -/

namespace Sys2Proof.Machine

/-! ## Classes and queues (R54 to R58) -/

def BandClasses.at (b : BandClasses) : Nat → Nat
  | 0 => b.band0
  | 1 => b.band1
  | 2 => b.band2
  | _ => b.band3

/-- The band of a number of slots to exit (R54). -/
def bandOf (u : UrgencyMap) (s : Nat) : Nat :=
  if s ≤ u.b1 then 0 else if s ≤ u.b2 then 1 else if s ≤ u.b3 then 2 else 3

/-- The class of a lead billet (R54). -/
def State.classOfLead (s : State) (l : Lead) : Nat :=
  let u := s.settings.urgency
  let row := match l.group with
    | .heating => u.heating
    | .holding => u.holding
  BandClasses.at row (bandOf u (s.positions - l.position))

def State.coil (s : State) (j : Nat) : Option Coil := at1 s.alloc.coils j

/-- The class of a coil, none with no lead billet (R54). -/
def State.classOf (s : State) (j : Nat) : Option Nat := ((s.coil j).bind Coil.lead).map s.classOfLead

def Queues.get (q : Queues) : Nat → List Nat
  | 0 => q.q0
  | 1 => q.q1
  | 2 => q.q2
  | _ => q.q3

/-- A coil joins the tail of the queue of a class. -/
def Queues.push (q : Queues) (c j : Nat) : Queues :=
  match c with
  | 0 => { q with q0 := q.q0 ++ [j] }
  | 1 => { q with q1 := q.q1 ++ [j] }
  | 2 => { q with q2 := q.q2 ++ [j] }
  | _ => { q with q3 := q.q3 ++ [j] }

/-- A coil leaves the queue it is in. -/
def Queues.remove (q : Queues) (j : Nat) : Queues :=
  { q0 := q.q0.filter (· != j), q1 := q.q1.filter (· != j), q2 := q.q2.filter (· != j), q3 := q.q3.filter (· != j) }

/-- The queued coils from Q3 down to Q0, each queue from head to tail (R60). -/
def Queues.inOrder (q : Queues) : List Nat := q.q3 ++ q.q2 ++ q.q1 ++ q.q0

def Ev.modCoil (e : Ev) (j : Nat) (f : Coil → Coil) : Ev :=
  e.modAlloc fun a => { a with coils := mod1 a.coils j f }

def Ev.setCoilState (e : Ev) (j : Nat) (st : CoilState) : Ev := e.modCoil j fun c => { c with state := st }

/-- The joining conditions (R56): the coil joins the tail of the queue of its class, and an allocation pass follows. -/
def Ev.joinTest (e : Ev) (j : Nat) : Ev :=
  match e.s.coil j, e.s.classOf j with
  | some c, some k =>
    if e.s.line.mode.heating && c.state == .unpowered && decide (e.s.settings.limits.threshold ≤ c.demand) &&
        e.s.reachable j then
      ((e.setCoilState j (.queued k)).modAlloc fun a => { a with queues := a.queues.push k j }).duePass
    else e
  | _, _ => e

/-- The joining conditions of every UNPOWERED coil, in descending coil number (R53, R56). -/
def Ev.joinAll (e : Ev) : Ev := e.forEach (descending e.s.alloc.coils.length) fun j e => e.joinTest j

def Ev.leaveQueue (e : Ev) (j : Nat) : Ev := e.modAlloc fun a => { a with queues := a.queues.remove j }

/-- The coil enters UNPOWERED, and the joining conditions are tested for it (R51). -/
def Ev.enterUnpowered (e : Ev) (j : Nat) : Ev := (e.setCoilState j .unpowered).joinTest j

/-- The end of ASSIGNED or LOCKED: DISABLED if the disable setting is set, UNPOWERED otherwise (R51). -/
def Ev.coilFreed (e : Ev) (j : Nat) : Ev :=
  match e.s.coil j with
  | some c => if c.disable then e.setCoilState j .disabled else e.enterUnpowered j
  | none => e

/-! ## Grants and releases (R61, R67) -/

inductive ReleaseCause where
  | slice | demand | disable | lock | mode | limit | fault
  deriving DecidableEq, Repr

/-- Release the grant of a channel once: its slice timer stops and, but for cause FAULT, the channel is asked to
disconnect (R67). -/
def Ev.release (e : Ev) (u : Inv) (cause : ReleaseCause) : Ev :=
  match e.s.alloc.grants.get u with
  | none => e
  | some g =>
    if g.released then e
    else
      let e1 := (e.modAlloc fun a => { a with grants := a.grants.set u (some { g with released := true }) }).stopSlice u
      match cause with
      | .fault => e1
      | _ => e1.disconnect u

/-- The channel reports the crosspoint of its coil open: the coil leaves ASSIGNED and the grant ends (R51, R74, R87). -/
def Ev.coilOpened (e : Ev) (u : Inv) (j : Nat) : Ev :=
  let e1 := e.modAlloc fun a => { a with grants := a.grants.set u none }
  match e1.s.coil j with
  | some c => if c.state = .assigned u then e1.coilFreed j else e1
  | none => e1

/-- A crosspoint of the coil enters FAIL_CLOSED: LOCKED from any state, with its grant released with cause LOCK
(R51, R67, R97). -/
def Ev.lockCoil (e : Ev) (j : Nat) : Ev :=
  match e.s.coil j with
  | none => e
  | some c =>
    match c.state with
    | .locked => e
    | .queued _ => (e.leaveQueue j).setCoilState j .locked
    | .assigned u =>
      ((e.release u .lock).setCoilState j .locked).modAlloc fun a => { a with grants := a.grants.set u none }
    | _ => e.setCoilState j .locked

/-- No crosspoint of the column is FAIL_CLOSED. -/
def State.columnHasFailClosed (s : State) (j : Nat) : Bool :=
  s.matrix.any fun x => x.coil == j && x.state == .failClosed

def State.rowHasFailClosed (s : State) (u : Inv) : Bool :=
  s.matrix.any fun x => x.inverter == u && x.state == .failClosed

/-- A crosspoint failure that leaves a QUEUED coil unreachable removes it from its queue (R58). -/
def Ev.failureReported (e : Ev) (j : Nat) : Ev :=
  match e.s.coil j with
  | some c =>
    match c.state with
    | .queued _ => if e.s.reachable j then e else (e.leaveQueue j).setCoilState j .unpowered
    | _ => e
  | none => e

/-! ## Reports of the track manager (R28, R53, R57, R58, R67) -/

/-- What a report does to the coil it is about. -/
def Ev.actOnReport (e : Ev) (j : Nat) : Ev :=
  match e.s.coil j with
  | none => e
  | some c =>
    match c.state with
    | .queued k =>
      if c.demand = 0 then (e.leaveQueue j).setCoilState j .unpowered
      else
        match e.s.classOf j with
        | some d =>
          if d = k then e
          else ((e.leaveQueue j).setCoilState j (.queued d)).modAlloc fun a => { a with queues := a.queues.push d j }
        | none => e
    | .assigned u => if c.demand = 0 then e.release u .demand else e
    | .unpowered => e.joinTest j
    | _ => e

/-- The values of a coil differ from the last values reported (R28). -/
def State.reportChanged (s : State) (j : Nat) : Bool :=
  match s.coil j with
  | some c => c.demand != s.coilDemand j || c.lead != s.coilLead j
  | none => false

/-- Compute the demand, lead and group of the coils of a list afresh, and report each whose values changed; the allocator
acts on the reports in descending coil number: R56 and R57 order the joins and the moves so. DESIGN CHOICE (log entry 49): the
grants that the reports of one event release with cause DEMAND (R67) are released in the same order, in turn with the joins and
moves, and so their STOP_OUTPUTs join the link queue (R113); no rule orders these. The list is in descending order. -/
def Ev.reportCoils (e : Ev) (js : List Nat) : Ev :=
  let changed := js.filter e.s.reportChanged
  let s0 := e.s
  let e1 := e.forEach changed fun j e => e.modCoil j fun c => { c with demand := s0.coilDemand j, lead := s0.coilLead j }
  e1.forEach changed fun j e => e.actOnReport j

/-- Every coil is touched (R28). -/
def Ev.reportAll (e : Ev) : Ev := e.reportCoils (descending e.s.alloc.coils.length)

/-- A new urgency map or new bounds: queued coils whose class changes move, in descending coil number (R54, R57). -/
def Ev.reclassify (e : Ev) : Ev :=
  e.forEach (descending e.s.alloc.coils.length) fun j e =>
    match e.s.coil j, e.s.classOf j with
    | some c, some d =>
      match c.state with
      | .queued k =>
        if d = k then e
        else ((e.leaveQueue j).setCoilState j (.queued d)).modAlloc fun a => { a with queues := a.queues.push d j }
      | _ => e
    | _, _ => e

/-! ## The allocation pass (R59 to R61) -/

/-- The first coil, from Q3 down, whose crosspoint to Ui is usable (R60) and whose column has no drive closed (R92).
DESIGN CHOICE (log entry 15): a coil LOCKED while ASSIGNED and freed by RELEASE_LOCKOUT during its old channel's disconnect
may be QUEUED with a drive of its column still closed; R60 would grant it, R51 and R92 forbid it. The model withholds it
until that drive opens, and may grant it from then on, while the old crosspoint is still OPENING. -/
def State.coilFor (s : State) (u : Inv) : Option Nat :=
  s.alloc.queues.inOrder.find? fun j => s.usable u j && !s.columnDriveClosed j

/-- The setpoint of a grant: the smallest of the two ratings and the headroom (R61). -/
def State.grantSetpointFor (s : State) (u : Inv) (j : Nat) : Nat :=
  min (min (s.inverterRating u) (s.coilRating j)) s.headroom

/-- A grant of Cj to Ui (R61, R78): the channel goes from IDLE to CLOSING and the drive is closed. -/
def Ev.grant (e : Ev) (u : Inv) (j : Nat) : Ev :=
  let kw := e.s.grantSetpointFor u j
  let e1 := (e.leaveQueue j).setCoilState j (.assigned u)
  let e2 := e1.modAlloc fun a =>
    { a with
      grants := a.grants.set u (some { coil := j, number := a.grantCounter, released := false })
      grantCounter := nextFrom1 top32 a.grantCounter }
  let e3 := e2.modChannel u fun c => { c with coil := some j, grantSetpoint := kw, rejects := 0, release := false }
  (e3.closeDrive u j).enterState u .closing

/-- One channel of a pass (R59, R60). -/
def Ev.offer (e : Ev) (u : Inv) : Ev :=
  if (e.s.channel u).state = .idle ∧ minimumSetpoint (e.s.inverterRating u) ≤ e.s.headroom then
    match e.s.coilFor u with
    | some j => e.grant u j
    | none => e
  else e

/-- A pass makes grants only in RUN, HOLD or DRAIN, on a verified track, with no pending limit (R59). -/
def State.passAllowed (s : State) : Bool :=
  s.line.mode.heating && s.track.verified && s.alloc.pendingLimit.isNone

/-- The allocation pass over U1 to U4 (R59). -/
def Ev.allocationPass (e : Ev) : Ev :=
  if e.s.passAllowed then e.forEach inverters fun u e => e.offer u else e

/-! ## Slices and raises (R65, R66) -/

/-- A QUEUED coil whose class is at least the class of the assigned coil and whose crosspoint to Ui is usable (R65). -/
def State.hasChallenger (s : State) (u : Inv) (j : Nat) : Bool :=
  let own := (s.classOf j).getD 0
  (descending s.alloc.coils.length).any fun k =>
    match s.coil k with
    | some c =>
      match c.state with
      | .queued _ => decide (own ≤ (s.classOf k).getD 0) && (s.classOf k).isSome && s.usable u k
      | _ => false
    | none => false

/-- At a renewal, the raise of R66. -/
def Ev.raiseSetpoint (e : Ev) (u : Inv) (j : Nat) : Ev :=
  let c := e.s.channel u
  let r := min (e.s.inverterRating u) (e.s.coilRating j)
  if c.commanded.isNone && decide (c.accepted < r) && decide (0 < e.s.headroom) && e.s.alloc.pendingLimit.isNone then
    e.commandSetOutput u (min r (c.accepted + e.s.headroom))
  else e

/-! ## Line limits (R69 to R71) -/

/-- The setpoint a channel will carry once its commands are answered (R70; log entry 14). -/
def Channel.planned (c : Channel) : Nat :=
  match c.state with
  | .closing => c.grantSetpoint
  | _ => (c.deferred <|> c.commanded).getD c.accepted

/-- A channel that holds a grant not released, in CLOSING, STARTING or ENERGIZED (R70). -/
def State.isCandidate (s : State) (u : Inv) : Bool :=
  (match s.alloc.grants.get u with
    | some g => !g.released
    | none => false) &&
  (match (s.channel u).state with
    | .closing | .starting | .energized => true
    | _ => false)

/-- The floor of a candidate (R70). -/
def State.floorOf (s : State) (u : Inv) : Nat :=
  min (s.channel u).planned (minimumSetpoint (s.inverterRating u))

/-- The counted value of a channel in FAULTED(NO_STOP), its planned value and its floor (R70). -/
def State.noStopFloor (s : State) : Nat :=
  (inverters.map fun u => if (s.channel u).state = .faulted .noStop then (s.channel u).accepted else 0).sum

/-- The class of the coil of a candidate, 0 with no lead billet. -/
def State.candidateClass (s : State) (u : Inv) : Nat :=
  ((s.alloc.grants.get u).bind fun g => s.classOf g.coil).getD 0

def State.grantNumber (s : State) (u : Inv) : Nat := ((s.alloc.grants.get u).map Grant.number).getD 0

/-- `u` is released before `v`: a lower class, or the same class and a higher grant number (R70). -/
def State.releasedBefore (s : State) (u v : Inv) : Bool :=
  decide (s.candidateClass u < s.candidateClass v) ||
    (s.candidateClass u == s.candidateClass v && decide (s.grantNumber v < s.grantNumber u))

/-- The candidate step 1 releases first. -/
def State.firstToRelease (s : State) : List Inv → Option Inv
  | [] => none
  | u :: us =>
    match s.firstToRelease us with
    | none => some u
    | some v => if s.releasedBefore u v then some u else some v

/-- Step 1 of the plan: the candidates that are released, `fuel` bounding their number (R70). -/
def State.releases (s : State) (p : Nat) : Nat → List Inv → List Inv
  | 0, _ => []
  | fuel + 1, cs =>
    if p < (cs.map s.floorOf).sum + s.noStopFloor then
      match s.firstToRelease cs with
      | some u => u :: s.releases p fuel (cs.filter (· != u))
      | none => []
    else []

/-- A reduction of one candidate to a setpoint (R70, R83). -/
def Ev.reduceTo (e : Ev) (u : Inv) (kw : Nat) : Ev :=
  let c := e.s.channel u
  match c.state with
  | .closing => e.modChannel u fun c => { c with grantSetpoint := kw }
  | _ =>
    if c.commanded.isSome then e.modChannel u fun c => { c with deferred := some kw }
    else e.commandSetOutput u kw

/-- Step 2 of the plan over the candidates that remain, in descending inverter number (R70). -/
def Ev.reduceAll (e : Ev) : Nat → List Inv → Ev
  | _, [] => e
  | excess, u :: us =>
    let planned := (e.s.channel u).planned
    let kw := max (e.s.floorOf u) (planned - excess)
    if 0 < excess ∧ kw < planned then (e.reduceTo u kw).reduceAll (excess - (planned - kw)) us
    else e.reduceAll excess us

/-- The reduction plan down to P (R70). -/
def Ev.reductionPlan (e : Ev) (p : Nat) : Ev :=
  let cs := inverters.filter e.s.isCandidate
  let gone := e.s.releases p 4 cs
  let stay := cs.filter fun u => !gone.contains u
  let excess := (stay.map fun u => (e.s.channel u).planned).sum + e.s.noStopFloor - p
  (e.forEach gone fun u e => e.release u .limit).reduceAll excess stay.reverse

/-- An accepted line limit L (R69): in force at once when it covers committed power, otherwise pending with a plan. -/
def Ev.takeLimit (e : Ev) (l : Nat) : Ev :=
  if e.s.committed ≤ l then e.modAlloc fun a => { a with effective := l, pendingLimit := none }
  else (e.modAlloc fun a => { a with pendingLimit := some l }).reductionPlan l

/-- A pending limit takes effect when committed power has fallen to it (R71); a pass follows when that leaves headroom. -/
def Ev.adoptPending (e : Ev) (committedBefore : Nat) : Ev :=
  match e.s.alloc.pendingLimit with
  | some p =>
    if e.s.committed < committedBefore ∧ e.s.committed ≤ p then
      let e1 := e.modAlloc fun a => { a with effective := p, pendingLimit := none }
      if 0 < e1.s.headroom then e1.duePass else e1
    else e
  | none => e

/-! ## Leaving RUN, HOLD and DRAIN (R72, R81) -/

/-- Every queue is emptied and every QUEUED coil becomes UNPOWERED (R72). -/
def Ev.emptyQueues (e : Ev) : Ev :=
  e.modAlloc fun a =>
    { a with
      queues := ⟨[], [], [], []⟩
      coils := a.coils.map fun c =>
        match c.state with
        | .queued _ => { c with state := .unpowered }
        | _ => c }

/-- Each channel withdraws a SET_OUTPUT of its own that waits (R81). -/
def Ev.withdrawSetOutputs (e : Ev) : Ev := e.forEach inverters fun u e => e.withdrawSetOutput u

/-- The mode leaves RUN, HOLD and DRAIN: queues emptied, every grant released with cause MODE, waiting setpoint commands
withdrawn (R72, R81, R102). The grants are released in ascending inverter number, so their STOP_OUTPUTs join the link queue
in that order, and the withdrawals come after the last release (log entry 36). -/
def Ev.stopHeating (e : Ev) : Ev :=
  ((e.emptyQueues).forEach inverters fun u e => e.release u .mode).withdrawSetOutputs

end Sys2Proof.Machine
end

