-- ==== Sys2Proof/Machine/Orders.lean ====
section
/-! DEFINITION. The order slots and the supply indicator (R148 to R162). -/

namespace Sys2Proof.Machine

def OrderMgr.get (o : OrderMgr) : SlotName → OrderSlot
  | .a => o.a
  | .b => o.b

def OrderMgr.set (o : OrderMgr) (n : SlotName) (x : OrderSlot) : OrderMgr :=
  match n with
  | .a => { o with a := x }
  | .b => { o with b := x }

def otherSlot : SlotName → SlotName
  | .a => .b
  | .b => .a

def OrderSlot.isFree : OrderSlot → Bool
  | .free => true
  | _ => false

/-- The acceptance order of a slot, 0 when FREE (R148, R208). -/
def OrderSlot.rank : OrderSlot → Nat
  | .free => 0
  | .pending _ r _ => r
  | .serving _ r _ _ => r
  | .filled _ r _ => r
  | .cancelled _ r _ => r
  | .expired _ r => r

def OrderSlot.withRank (r : Nat) : OrderSlot → OrderSlot
  | .free => .free
  | .pending t _ d => .pending t r d
  | .serving t _ d p => .serving t r d p
  | .filled t _ x => .filled t r x
  | .cancelled t _ c => .cancelled t r c
  | .expired t _ => .expired t r

def OrderSlot.isPending : OrderSlot → Bool
  | .pending _ _ _ => true
  | _ => false

/-- The oldest PENDING slot (R150): the PENDING slot with acceptance order 1, and otherwise the other one if it is
PENDING. -/
def OrderMgr.oldestPending (o : OrderMgr) : Option SlotName :=
  if o.a.isPending && o.a.rank == 1 then some .a
  else if o.b.isPending && o.b.rank == 1 then some .b
  else if o.a.isPending then some .a
  else if o.b.isPending then some .b
  else none

def Ev.setSlot (e : Ev) (n : SlotName) (x : OrderSlot) : Ev := e.modOrders fun o => o.set n x

/-- A slot enters CANCELLED, and ORDER_CHANGED is raised (R159). -/
def Ev.cancelSlot (e : Ev) (n : SlotName) (tag rank : Nat) (r : CancelReason) : Ev :=
  (e.setSlot n (.cancelled tag rank r)).raise .press .orderChanged

/-- The cancel reason of the mode entered, none for RUN and DRAIN (R158). -/
def cancelReasonOf (restart : Bool) : Mode → Option CancelReason
  | .hold _ => some .hold
  | .stopping _ => some (if restart then .restart else .mode)
  | .purge | .faultStop | .standby => some .mode
  | _ => none

/-- A mode entered acts on a PENDING slot (R158). -/
def Ev.cancelPending (e : Ev) (n : SlotName) : Ev :=
  match e.s.orders.get n, cancelReasonOf e.s.line.restartMark e.s.line.mode with
  | .pending tag rank _, some r => e.cancelSlot n tag rank r
  | _, _ => e

/-- What the slot becomes when it is returned not served (R155): PENDING in RUN and DRAIN, CANCELLED in any other mode. -/
def Ev.returnSlot (e : Ev) (n : SlotName) : Ev :=
  match e.s.orders.get n with
  | .serving tag rank deadline _ =>
    match e.s.line.mode with
    | .run | .drain => (e.setSlot n (.pending tag rank deadline)).dueEval
    | .hold _ => e.cancelSlot n tag rank .hold
    | .stopping _ => e.cancelSlot n tag rank (if e.s.line.restartMark then .restart else .mode)
    | _ => e.cancelSlot n tag rank .mode
  | _ => e

/-- A delivered billet fills its SERVING slot (R154). -/
def Ev.fillSlot (e : Ev) (n : SlotName) (r : OrderResult) : Ev :=
  match e.s.orders.get n with
  | .serving tag rank _ _ => (e.setSlot n (.filled tag rank r)).raise .press .orderChanged
  | _ => e

/-- The supply count: READY, unmarked billets in the last M positions, 0 while the track is unverified (R161). -/
def State.supplyCount (s : State) : Nat :=
  if s.track.verified then
    (s.track.slots.drop (s.track.slots.length - s.settings.limits.window)).countP fun x =>
      match x with
      | .billet b => b.servable
      | _ => false
  else 0

/-- The indicator by mode and count (R162). -/
def State.supplyNow (s : State) : Supply :=
  match s.line.mode with
  | .run | .drain =>
    if s.supplyCount < s.settings.limits.lowMark then .short
    else if s.settings.limits.highMark ≤ s.supplyCount then .ok
    else s.orders.supply
  | _ => .short

/-- Set the indicator; a change of its value raises SUPPLY_CHANGED (R162). -/
def Ev.recountSupply (e : Ev) : Ev :=
  let v := e.s.supplyNow
  if v = e.s.orders.supply then e
  else (e.modOrders fun o => { o with supply := v }).raise .press .supplyChanged

/-- One line second of a PENDING slot with a deadline (R152). -/
def Ev.countDeadline (e : Ev) (n : SlotName) : Ev :=
  match e.s.orders.get n with
  | .pending tag rank (some d) =>
    if d ≤ 1 then ((e.setSlot n (.expired tag rank)).raise .press .orderChanged).dueEval
    else e.setSlot n (.pending tag rank (some (d - 1)))
  | _ => e

/-- Restart the press silence timer with the setting in force, if it runs (R164). -/
def OrderMgr.restartSilence (o : OrderMgr) (setting : Nat) : OrderMgr :=
  if o.silence.isRunning then { o with silence := timerFrom setting } else o

end Sys2Proof.Machine
end

