-- ==== Sys2Proof/Machine/Discharge.lean ====
section
/-! DEFINITION. Classification at the discharge station and the discharge history (R139 to R146). -/

namespace Sys2Proof.Machine

def ClassOutcome.isDelivered : ClassOutcome → Bool
  | .delivered => true
  | .diverted _ => false

/-- Append an entry; the list holds at most 16, the oldest dropped first (R146). -/
def appendHistory (h : List HistoryEntry) (x : HistoryEntry) : List HistoryEntry :=
  (if 16 ≤ h.length then h.drop (h.length - 15) else h) ++ [x]

/-- The classification count wraps from 4 294 967 295 to 0 (R144). -/
def nextCount (c : Nat) : Nat := if top32 ≤ c then 0 else c + 1

def historyOf (b : Billet) (outcome : ClassOutcome) (temperature : Option Nat) (served : Option Served) : HistoryEntry :=
  { id := b.id, grade := b.grade, charge := b.charge.getD 0, outcome := outcome, temperature := temperature,
    tag := served.map Served.tag }

/-- The order manager's part of a classification (R144): a delivered billet fills the served slot, a diverted billet
returns it. -/
def Ev.settleOrder (e : Ev) (b : Billet) (outcome : ClassOutcome) (temperature : Option Nat) (served : Option Served)
    (push : Nat) : Ev :=
  match served with
  | none => e
  | some v =>
    if outcome.isDelivered then
      e.fillSlot v.slot
        { id := b.id, grade := b.grade, charge := b.charge.getD 0, push := push, temperature := temperature }
    else e.returnSlot v.slot

/-- The learning update of a classification that used a VALID reading of a READY, unmarked billet (R43). -/
def Ev.feedLearning (e : Ev) (b : Billet) (temperature : Option Nat) : Ev :=
  match temperature with
  | some t => if b.servable then e.learn b.recipe t else e
  | none => e

/-- A classification, in the order of R144. -/
def Ev.classify (e : Ev) (b : Billet) (outcome : ClassOutcome) (temperature : Option Nat) (served : Option Served)
    (push : Nat) : Ev :=
  let e1 := e.modLines fun l => { l with divert := !outcome.isDelivered }
  let e2 := (e1.modPush fun p =>
    { p with history := appendHistory p.history (historyOf b outcome temperature served)
             classCount := nextCount p.classCount }).raise .supervisor .historyAdded
  let e3 := e2.settleOrder b outcome temperature served push
  let e4 := e3.feedLearning b temperature
  (e4.modPush fun p => { p with station := none, measureTimer := .stopped }).dueEval

/-- The billet in a MEASURING station is classified. -/
def Ev.classifyMeasured (e : Ev) (m : Measuring) (outcome : ClassOutcome) (temperature : Option Nat) : Ev :=
  e.classify m.billet outcome temperature (some m.served) m.push

/-- The outcome of a VALID reading against the window of the billet's entry (R141). -/
def outcomeOfReading (r : RecipeData) (t : Nat) : ClassOutcome :=
  if t < r.windowLow then .diverted .cold
  else if r.windowHigh < t then .diverted .hot
  else .delivered

/-- The entry into FAULT_STOP diverts a measuring billet LINE_FAULT (R143). -/
def Ev.divertMeasuring (e : Ev) : Ev :=
  match e.s.push.station with
  | some m => e.classifyMeasured m (.diverted .lineFault) none
  | none => e

/-- The content that left position N enters the discharge station (R139). -/
def Ev.discharge (e : Ev) (x : Option Slot) (r : PushRecord) : Ev :=
  match x with
  | some (.billet b) =>
    if b.rejectBound then e.classify b (.diverted .rejectBound) none r.served r.number
    else if b.isReady then
      match r.served with
      | none => e.classify b (.diverted .unmeasured) none none r.number
      | some v =>
        if e.s.line.mode = .faultStop then e.classify b (.diverted .lineFault) none r.served r.number
        else e.modPush fun p =>
          { p with station := some { billet := b, served := v, push := r.number }
                   measureTimer := .running e.s.settings.timers.measureTimeout }
    else e.classify b (.diverted .underheated) none r.served r.number
  | _ => e

end Sys2Proof.Machine
end

