-- ==== Sys2Proof/Machine/Modes.lean ====
section
/-! DEFINITION. The line mode controller: changes of mode and what each block does at one, FAULT_STOP, STOPPING and its end, hold causes, the decision of START, the warm restart (R166 to R182). -/

namespace Sys2Proof.Machine

def HoldCauses.has (h : HoldCauses) : HoldCause → Bool
  | .press => h.press
  | .silent => h.silent
  | .supervisor => h.supervisor

def HoldCauses.put (h : HoldCauses) (c : HoldCause) (b : Bool) : HoldCauses :=
  match c with
  | .press => { h with press := b }
  | .silent => { h with silent := b }
  | .supervisor => { h with supervisor := b }

def HoldCauses.isEmpty (h : HoldCauses) : Bool := !h.press && !h.silent && !h.supervisor

def StopCauses.add (f : StopCauses) (c : StopCause) : StopCauses :=
  match c with
  | .lineStop => { f with lineStop := true }
  | .incomplete => { f with incomplete := true }
  | .pushTimeout => { f with pushTimeout := true }
  | .noStop => { f with noStop := true }
  | .welded => { f with welded := true }

def StopCauses.none : StopCauses := ⟨false, false, false, false, false⟩

/-- The hold-limit timer starts at each entry into HOLD and stops when the line leaves it (R174). It is counted in
seconds. -/
def holdTimerOf (limitMinutes : Nat) : Mode → Timer
  | .hold _ => .running (limitMinutes * 60)
  | _ => .stopped

/-- The allocator and the channels act on a change of mode (R72, R102). -/
def Ev.heatingFollows (e : Ev) (old : Mode) : Ev :=
  if e.s.line.mode.heating then (if old.heating then e else e.joinAll.duePass)
  else if old.heating then e.stopHeating
  else e

/-- One change of mode (R166): MODE_CHANGED on the three ports, then the allocator and the channels, the order manager,
and the push controller. -/
def Ev.enterMode (e : Ev) (m : Mode) : Ev :=
  let old := e.s.line.mode
  let limit := e.s.settings.timers.holdLimit
  let silence := e.s.settings.timers.pressSilence
  let e1 := (e.modLine fun l => { l with mode := m, holdTimer := holdTimerOf limit m }).raiseModeChanged
  let e2 := if old = .loading then e1.modOrders fun o => { o with silence := timerFrom silence } else e1
  let e3 := e2.heatingFollows old
  let e4 := ((e3.cancelPending .a).cancelPending .b).recountSupply
  let e5 := if m = .faultStop then e4.divertMeasuring else e4
  e5.dueEval

/-- Entry into FAULT_STOP with a cause: the restart mark is cleared (R177). -/
def Ev.enterFaultStop (e : Ev) (c : StopCause) : Ev :=
  (e.modLine fun l => { l with stopCauses := l.stopCauses.add c, restartMark := false }).enterMode .faultStop

/-- A request for FAULT_STOP (R177). -/
def Ev.requestFaultStop (e : Ev) (c : StopCause) : Ev :=
  if e.s.line.mode.noLine then e
  else if e.s.line.mode = .faultStop then e.modLine fun l => { l with stopCauses := l.stopCauses.add c }
  else e.enterFaultStop c

/-- A change of mode; while LINE_STOP is asserted, an entry into a mode other than FAULT_STOP is replaced by entry into
FAULT_STOP with cause LINE_STOP (R178), the entry into UNCONFIGURED excepted (log entry 11). -/
def Ev.changeMode (e : Ev) (m : Mode) : Ev :=
  if e.s.lines.lineStop && !m.noLine && m != .faultStop then e.enterFaultStop .lineStop else e.enterMode m

/-! ## START and discovery rounds (R119, R170) -/

/-- The request code of START (R207). -/
def startCode : Byte := 0x30

/-- The decision at the end of START's discovery round (R170), by the hold causes that the set then holds. DESIGN CHOICE (log
entry 50): taken against PRESS_HOLD in either order (R183), the model applies R170 and R172 in the order taken; the row of R183's
table for this pair gives the two outcomes in the opposite columns. A round that ends first brings RUN, and PRESS_HOLD then HOLD
with return mode RUN; PRESS_HOLD taken first joins the set, and the round's end brings HOLD with return mode RUN alone. -/
def Ev.decideStart (e : Ev) : Ev × ResponseBody :=
  if e.s.line.mode != .standby then (e, .refused .wrongMode)
  else if inverters.all (fun u => (e.s.channel u).state != .idle) then (e, .refused .notUsable)
  else if e.s.line.holdCauses.isEmpty then (e.changeMode .run, .accepted)
  else (e.changeMode (.hold .run), .accepted)

/-- The answer START held back is stored on the supervisor port (R189). -/
def Ev.answerStart (e : Ev) (b : ResponseBody) : Ev :=
  e.modPort .supervisor fun r =>
    if r.state = .processing startCode then { r with state := .ready { code := startCode, body := b } } else r

/-- The end of a round that START awaits. -/
def Ev.endStartRound (e : Ev) : Ev :=
  let d := e.decideStart
  d.1.answerStart d.2

/-- A channel of the discovery rounds has had its DISCOVERY read answered or timed out, or has become ABSENT: the rounds
that await no other channel end (R119). -/
def Ev.unitAnswered (e : Ev) (u : Inv) : Ev :=
  let rounds := e.s.link.rounds.map fun r => { r with waiting := r.waiting.filter (· != u) }
  let ended := rounds.filter fun r => r.waiting.isEmpty
  let e1 := e.modLink fun l =>
    { l with discovery := l.discovery.set u .none, rounds := rounds.filter fun r => !r.waiting.isEmpty }
  if ended.any Round.forStart then e1.endStartRound else e1

/-- The discovery READ_STATE of a channel of a round (R119): queued at once, or behind the start-up stop and its hold-back
time (R118), or served by a clear sequence in progress (R120; log entry 20). A channel that already awaits one is not
queued again. -/
def Ev.nameForDiscovery (e : Ev) (u : Inv) : Ev :=
  if e.s.link.discovery.get u != .none then e
  else if (e.s.channel u).clearing then e.modLink fun l => { l with discovery := l.discovery.set u .byClear }
  else if e.s.link.startMark.get u || (e.s.link.holdback.get u).isRunning then
    e.modLink fun l => { l with discovery := l.discovery.set u .wanted }
  else
    (e.modLink fun l => { l with discovery := l.discovery.set u .queued }).enqueue
      { owner := u, command := .readState, purpose := .discovery }

/-- A round over a list of channels in ascending number (R119). A round that names none is not recorded. -/
def Ev.beginRound (e : Ev) (us : List Inv) (forStart : Bool) : Ev :=
  if us.isEmpty then e
  else
    (e.forEach us fun u e => e.nameForDiscovery u).modLink fun l =>
      { l with rounds := l.rounds ++ [{ waiting := us, forStart := forStart }] }

/-! ## Warm restart (R182) -/

/-- The column "After warm restart" of R75. -/
def Channel.restarted (c : Channel) : Channel :=
  { c.disconnected with rejects := 0, clearing := false, stopConfirm := .stopped, retry := none }

/-- Coils keep DISABLED and LOCKED, every other coil is UNPOWERED; no report is held (R51, R53). -/
def Coil.restarted (c : Coil) : Coil :=
  { c with
    state := (match c.state with
      | .disabled => .disabled
      | .locked => .locked
      | _ => .unpowered)
    demand := 0
    lead := none }

def startStopOnly (q : List LinkEntry) : List LinkEntry := q.filter LinkEntry.isStartStop

/-- A CLEAR or DISCOVERY transaction in flight runs on and its outcome is discarded (R122). -/
def Transaction.atRestart (t : Transaction) : Transaction :=
  match t.entry.purpose with
  | .clear | .discovery => { t with discard := true }
  | _ => t

/-- The link at a warm restart (R122). -/
def Link.restarted (l : Link) : Link :=
  { l with
    queue := startStopOnly l.queue
    inFlight := l.inFlight.map Transaction.atRestart
    pollDue := PerInv.all false
    pointer := 0
    held := PerInv.all none
    discovery := PerInv.all .none
    rounds := [] }

/-- Flags cleared and masks unmasked, everything else of a port kept (R185). -/
def PortRec.restarted (r : PortRec) : PortRec := { r with flags := EventSet.none, mask := EventSet.none }

/-- The track, the cradle, the charge counter and the unattributed counters at a warm restart (R2, R8, R14, R24). -/
def TrackMgr.restarted (t : TrackMgr) (n : Nat) : TrackMgr :=
  { t with
    slots := List.replicate n .undeclared
    verified := false
    cradle := none
    chargeCounter := 1
    unattributed := t.unattributed.map fun _ => 0 }

def Allocator.restarted (a : Allocator) : Allocator :=
  { a with
    coils := a.coils.map Coil.restarted
    queues := ⟨[], [], [], []⟩
    grants := PerInv.all none
    grantCounter := 1
    pendingLimit := none
    slice := PerInv.all .stopped }

def PushCtl.restarted (p : PushCtl) : PushCtl :=
  { p with
    record := none
    timer := .stopped
    cradleWait := false
    station := none
    measureTimer := .stopped
    history := []
    classCount := 0 }

def PerInv.map {α β : Type} (f : α → β) (x : PerInv α) : PerInv β := ⟨f x.u1, f x.u2, f x.u3, f x.u4⟩

/-- The warm-restart values of every block but the mode (R182). -/
def State.restarted (s : State) : State :=
  { s with
    line :=
      { mode := s.line.mode
        holdCauses := ⟨false, false, false⟩
        holdTimer := .stopped
        stopCauses := { StopCauses.none with lineStop := s.lines.lineStop }
        restartMark := false }
    lines := { s.lines with divert := true }
    track := s.track.restarted s.positions
    alloc := s.alloc.restarted
    channels := s.channels.map Channel.restarted
    link := s.link.restarted
    push := s.push.restarted
    orders := { s.orders with a := .free, b := .free, supply := .short }
    ports := ⟨s.ports.press.restarted, s.ports.feeder.restarted, s.ports.supervisor.restarted⟩ }

/-- The warm restart applies its values and the line enters STANDBY, or FAULT_STOP while LINE_STOP is asserted (R182). A
discovery round in progress ends with its report first (R122). -/
def Ev.applyRestart (e : Ev) : Ev :=
  let e0 := if e.s.link.rounds.any Round.forStart then e.endStartRound else e
  let s1 := e0.s.restarted
  let m : Mode := if s1.lines.lineStop then .faultStop else .standby
  let e1 : Ev := { e0 with s := { s1 with line := { s1.line with mode := m } } }
  e1.raiseModeChanged.dueEval

/-! ## STOPPING (R169) -/

/-- The line enters a target (R169): PURGE only when the track holds a billet; STANDBY with the restart mark set applies
the restart. -/
def Ev.enterTarget (e : Ev) : StopTarget → Ev
  | .purge => if 0 < e.s.billets then e.changeMode .purge else e.changeMode .standby
  | .standby => if e.s.line.restartMark then e.applyRestart else e.changeMode .standby

/-- To a target by way of STOPPING (R169). -/
def Ev.byWayOfStopping (e : Ev) (t : StopTarget) : Ev :=
  if e.s.anyWorking then (if e.s.line.mode = .stopping t then e else e.changeMode (.stopping t)) else e.enterTarget t

/-- STOPPING ends when a channel has left the working states and none is working (R169). -/
def Ev.testStopping (e : Ev) (before : State) : Ev :=
  match e.s.line.mode with
  | .stopping t =>
    if (inverters.any fun u => (before.channel u).state.working && !(e.s.channel u).state.working) && !e.s.anyWorking
    then e.enterTarget t else e
  | _ => e

/-! ## The end of DRAIN and PURGE (R175, R176) -/

/-- DRAIN ends when the track holds no billet and the cradle is empty (R176). -/
def Ev.testDrain (e : Ev) : Ev :=
  if e.s.line.mode = .drain ∧ e.s.billets = 0 ∧ e.s.track.cradle = none then e.byWayOfStopping .standby else e

/-- PURGE ends when a change to the track leaves it holding no billet (R175). -/
def Ev.testPurge (e : Ev) : Ev :=
  if e.s.line.mode = .purge ∧ e.s.billets = 0 then e.changeMode .standby else e

/-- A track-change signal (R29): the order manager recounts the supply, the mode controller tests the end of PURGE and
DRAIN, and the push controller's evaluation falls due. -/
def Ev.trackSignal (e : Ev) : Ev := (e.recountSupply.testPurge.testDrain).dueEval

/-! ## Hold causes (R172) -/

/-- A hold cause joins the set; in RUN or DRAIN the line enters HOLD (R172). -/
def Ev.addHold (e : Ev) (c : HoldCause) : Ev :=
  let e1 := e.modLine fun l => { l with holdCauses := l.holdCauses.put c true }
  match e.s.line.mode with
  | .run => e1.changeMode (.hold .run)
  | .drain => e1.changeMode (.hold .drain)
  | _ => e1

/-- Hold causes leave the set; when that leaves it empty in HOLD, the line enters its return mode (R172, R176). -/
def Ev.removeHolds (e : Ev) (cs : List HoldCause) : Ev :=
  let e1 := e.modLine fun l => { l with holdCauses := cs.foldl (fun h c => h.put c false) l.holdCauses }
  if e1.s.line.holdCauses.isEmpty && !e.s.line.holdCauses.isEmpty then
    match e.s.line.mode with
    | .hold .run => e1.changeMode .run
    | .hold .drain => (e1.changeMode .drain).testDrain
    | _ => e1
  else e1

end Sys2Proof.Machine
end

