-- ==== Sys2Proof/Machine/TrackEvents.lean ====
section
/-! DEFINITION. Changes of the track with what they cause: coil reports and track-change signals (R7, R19, R23, R24, R28, R29). -/

namespace Sys2Proof.Machine

/-- Put new slots in the track: the coils of a list (descending) are reported afresh, and a change of thermal state or
mark is signalled (R28, R29). -/
def Ev.putSlots (e : Ev) (slots : List Slot) (touched : List Nat) : Ev :=
  let before := e.s.track.slots
  let e1 := (e.modTrack fun t => { t with slots := slots }).reportCoils touched
  if signalNeeded before slots then e1.trackSignal else e1

/-- Add energy to a coil's unattributed-energy counter, which saturates (R24). -/
def Ev.bookUnattributed (e : Ev) (j d : Nat) : Ev :=
  e.modTrack fun t => { t with unattributed := mod1 t.unattributed j fun c => min top32 (c + d) }

/-- An energy difference of d kJ for coil Cj (R23, R24). -/
def Ev.attribute (e : Ev) (j d : Nat) : Ev :=
  if d = 0 then e
  else if e.s.track.verified && !(e.s.coilBillets j).isEmpty then e.putSlots (e.s.shareEnergy j d) [j]
  else e.bookUnattributed j d

/-- The suspect mark ENERGY_UNKNOWN on every billet in the positions of a coil (R19). -/
def State.markedSlots (s : State) (j : Nat) : List Slot :=
  match s.coilRange j with
  | none => s.track.slots
  | some c =>
    mapNumbered (fun p x =>
      match x with
      | .billet b => if c.covers p then .billet { b with suspect := some .energyUnknown } else x
      | _ => x) 1 s.track.slots

/-- The marking request of a lost channel; SUSPECT_MARKED is raised when the coil holds a billet (R19). -/
def Ev.markEnergyUnknown (e : Ev) (j : Nat) : Ev :=
  if (e.s.coilBillets j).isEmpty then e
  else (e.raise .supervisor .suspectMarked).putSlots (e.s.markedSlots j) [j]

/-- One line second of the billets of a verified track (R16, R17). -/
def Ev.ageTrack (e : Ev) : Ev :=
  if e.s.track.verified then e.putSlots e.s.agedSlots (descending e.s.alloc.coils.length) else e

/-- The track loses verification (R7): every slot UNDECLARED, the cradle emptied after a push of kind BILLET,
TRACK_UNVERIFIED raised, setpoint commands withdrawn (R81), every coil reported, FAULT_STOP requested, and the change
signalled. -/
def Ev.loseVerification (e : Ev) (kind : PushKind) (cause : StopCause) : Ev :=
  let e1 := e.modTrack fun t =>
    { t with
      slots := t.slots.map fun _ => Slot.undeclared
      verified := false
      cradle := if kind = .billet then none else t.cradle }
  (((e1.raise .supervisor .trackUnverified).withdrawSetOutputs.reportAll).requestFaultStop cause).trackSignal

end Sys2Proof.Machine
end

