-- ==== Sys2Proof/Machine/Pushes.lean ====
section
/-! DEFINITION. When a push is wanted, ordering it, its outcomes, and the end of an event: STOPPING's end, the pending limit, the allocation pass, the push evaluation (R127 to R139). -/

namespace Sys2Proof.Machine

/-- What an evaluation finds (R127): no push wanted, a push wanted with the cradle empty in RUN, or a push to order. -/
inductive Want where
  | nothing
  | cradle
  | push (kind : PushKind) (origin : Origin) (claim : Option SlotName)
  deriving DecidableEq, Repr

/-- The origin by the content of position N and the order slots (R128). -/
def State.exitOrigin (s : State) : Option (Origin × Option SlotName) :=
  match s.exitSlot with
  | some .gap => some (.fill, none)
  | some (.billet b) =>
    if b.rejectBound then some (.divert, none)
    else if b.isReady then s.orders.oldestPending.map fun n => (.serve, some n)
    else none
  | _ => none

/-- The evaluation in RUN (R128). -/
def State.wantInRun (s : State) : Want :=
  match s.exitOrigin with
  | some (o, claim) => if s.track.cradle.isSome then .push .billet o claim else .cradle
  | none => .nothing

/-- The evaluation in DRAIN (R129). -/
def State.wantInDrain (s : State) : Want :=
  if s.billets = 0 then .nothing
  else
    match s.exitOrigin with
    | some (o, claim) =>
      if s.track.cradle.isSome then .push .billet o claim
      else .push .gap (if claim.isSome then .serve else .drain) claim
    | none => .nothing

/-- The evaluation (R127 to R129). -/
def State.wantedPush (s : State) : Want :=
  if s.push.record.isSome || s.push.station.isSome || !s.track.verified then .nothing
  else
    match s.line.mode with
    | .run => s.wantInRun
    | .drain => s.wantInDrain
    | .purge => if 0 < s.billets then .push .gap .purge none else .nothing
    | _ => .nothing

/-- The claimed slot becomes SERVING with the push's number (R130, R153). -/
def OrderSlot.claimed (number : Nat) : OrderSlot → OrderSlot
  | .pending t r d => .serving t r d number
  | x => x

def OrderSlot.tag : OrderSlot → Nat
  | .free => 0
  | .pending t _ _ => t
  | .serving t _ _ _ => t
  | .filled t _ _ => t
  | .cancelled t _ _ => t
  | .expired t _ => t

/-- Order a push (R130). -/
def Ev.orderPush (e : Ev) (kind : PushKind) (origin : Origin) (claim : Option SlotName) : Ev :=
  let n := e.s.push.counter
  let record : PushRecord :=
    { number := n
      kind := kind
      origin := origin
      served := claim.map fun c => { slot := c, tag := (e.s.orders.get c).tag }
      chargedId := if kind = .billet then e.s.track.cradle.map PendingBillet.id else none }
  let timeout := e.s.settings.timers.pushTimeout
  let e1 := e.modPush fun p =>
    { p with
      record := some record
      counter := nextFrom1 255 p.counter
      timer := .running (timeout * 1000)
      cradleWait := false }
  let e2 := match claim with
    | some c => e1.setSlot c ((e1.s.orders.get c).claimed n)
    | none => e1
  e2.raise .feeder .pushOrdered

/-- The push evaluation (R127, R131). -/
def Ev.evaluate (e : Ev) : Ev :=
  match e.s.wantedPush with
  | .nothing => e.modPush fun p => { p with cradleWait := false }
  | .cradle =>
    if e.s.push.cradleWait then e
    else (e.modPush fun p => { p with cradleWait := true }).raise .feeder .cradleWanted
  | .push kind origin claim => e.orderPush kind origin claim

/-! ## The end of an event -/

/-- Headroom has grown: a counted value fell, or the effective limit rose (R63). -/
def headroomGrew (before after : State) : Bool :=
  (inverters.any fun u => decide ((after.channel u).counted < (before.channel u).counted)) ||
    decide (before.alloc.effective < after.alloc.effective)

/-- The end of an event that began in the state `before`: a pending limit may take effect (R71), STOPPING may end (R169),
then one allocation pass if one is due (R59, R63) and one push evaluation if one is due (R127). The limit comes first: the
fall of committed power that ends a warm restart's wind-down puts it in force before the restart clears it (log entry 12). -/
def Ev.finish (e : Ev) (before : State) : State :=
  let e1 := e.adoptPending before.committed
  let e2 := e1.testStopping before
  let e3 := if e2.passDue || headroomGrew before e2.s then e2.allocationPass else e2
  (if e3.evalDue then e3.evaluate else e3).s

/-- A whole event. -/
def State.event (s : State) (f : Ev → Ev) : State := (f (Ev.of s)).finish s

/-! ## Outcomes of a push (R135 to R137) -/

/-- The push record is cleared and its timer stopped; an evaluation follows (R127). -/
def Ev.clearPush (e : Ev) : Ev := (e.modPush fun p => { p with record := none, timer := .stopped }).dueEval

/-- A served order slot is handed back as not served (R136, R137). -/
def Ev.handBack (e : Ev) (r : PushRecord) : Ev :=
  match r.served with
  | some v => e.returnSlot v.slot
  | none => e

/-- An accepted PUSH_DONE (R13, R135): the shift, the coils reported, the record cleared, the leaving content taken into
the station, the change signalled. -/
def Ev.pushDone (e : Ev) (r : PushRecord) : Ev :=
  let leaving := e.s.exitSlot
  let shifted := e.s.shiftedTrack r.kind
  (((e.modTrack fun _ => shifted).reportAll.clearPush).discharge leaving r).trackSignal

/-- The push ended without moving the track (R136). -/
def Ev.pushNotStarted (e : Ev) (r : PushRecord) : Ev := (e.clearPush).handBack r

/-- The push ended INCOMPLETE or by its timer (R137). -/
def Ev.pushLost (e : Ev) (r : PushRecord) (cause : StopCause) : Ev :=
  ((e.handBack r).clearPush).loseVerification r.kind cause

end Sys2Proof.Machine
end

