-- ==== Sys2Proof/Machine/ChannelEvents.lean ====
section
/-! DEFINITION. What a channel does at the reports of its crosspoint, at the outcomes of its transactions, at its loss; what a feedback reading and a feedback timer do to a crosspoint (R76 to R101, R109 to R112, R118 to R120). -/

namespace Sys2Proof.Machine

/-! ## The channel and its crosspoint -/

/-- The crosspoint of the assigned coil is confirmed open (R87): the allocator takes the report, the channel loses its
coil and takes the state of its pending cause. -/
def Ev.channelOpened (e : Ev) (u : Inv) : Ev :=
  let c := e.s.channel u
  let e1 := e.modChannel u Channel.disconnected
  let e2 := match c.coil with
    | some j => e1.coilOpened u j
    | none => e1
  e2.enterState u c.afterOpen

/-- The channel is told that the crosspoint of its coil is CLOSED (R79). -/
def Ev.channelClosed (e : Ev) (u : Inv) : Ev :=
  let c := e.s.channel u
  if c.state = .closing then
    if !c.release && e.s.setOutputAllowed then (e.commandSetOutput u c.grantSetpoint).enterState u .starting
    else e.enterOpening u
  else e

/-- A channel takes a fault that ends its connection: the cause is recorded, and the grant is released with cause FAULT
(R77). -/
def Ev.noteFault (e : Ev) (u : Inv) (c : PendingCause) : Ev := (e.modChannel u (Channel.noteCause c)).release u .fault

/-- The inverter has stopped itself (R89): pending cause INVERTER_FAULT in place of any other (log entry 18), the grant
released with cause FAULT, the drive opened. With no crosspoint to open the channel is FAULTED at once (log entry 24). -/
def Ev.inverterStopped (e : Ev) (u : Inv) : Ev :=
  if (e.s.channel u).coil.isSome then
    ((e.modChannel u fun x => { x with pendingCause := some .inverterFault, pendingWelded := false }).release u
      .fault).enterOpening u
  else e.enterState u (.faulted .inverterFault)

/-! ## Loss (R90, R91) -/

/-- Emergency open (R91). -/
def Ev.emergencyOpen (e : Ev) (u : Inv) : Ev :=
  let coil := (e.s.channel u).coil
  let e1 := ((e.setPending u .linkLost).release u .fault).enterOpening u
  match coil with
  | some j => e1.markEnergyUnknown j
  | none => e1

/-- A lost channel with no connection: its commands are withdrawn and it is FAULTED(LINK_LOST) at once (R91, R123). -/
def Ev.loseUnconnected (e : Ev) (u : Inv) : Ev :=
  ((e.withdraw u).modChannel u fun c => { c with clearing := false, retry := none }).enterState u (.faulted .linkLost)

/-- The READ_STATE of a clear sequence, or of a round, serves the discovery rounds that await the channel (R120). -/
def Ev.clearServes (e : Ev) (u : Inv) : Ev :=
  if e.s.link.discovery.get u = .byClear then e.unitAnswered u else e

/-- A clear sequence ends without its STATE reply (R100): a FAULTED channel becomes FAULTED(LINK_LOST), and a channel in any
other state keeps it. It raises no CHANNEL_FAULT for a channel left UNREACHED, also when the sequence serves a discovery round
(R77, R120, R194; log entry 38). DESIGN CHOICE (log entries 39 and 48): R100 gives the outcome for UNREACHED and FAULTED alone;
a LOCKED channel takes it into its locked-from value, and a channel that a DISCOVERY read made IDLE while the sequence waited, or
that was granted a coil since, keeps its state. -/
def Ev.abandonClear (e : Ev) (u : Inv) : Ev :=
  let e1 := e.modChannel u fun x => { x with clearing := false }
  let e2 := match (e.s.channel u).state with
    | .faulted _ => e1.enterState u (.faulted .linkLost)
    | .locked (.faulted _) => e1.modChannel u fun x => { x with state := .locked (.faulted .linkLost) }
    | _ => e1
  e2.clearServes u

/-- The last row of R91: a clear sequence in progress ends as R100 states, its waiting command is withdrawn, and with none in
progress nothing changes. -/
def Ev.loseWaitingClear (e : Ev) (u : Inv) : Ev :=
  if (e.s.channel u).clearing then (e.withdrawClear u).abandonClear u else e

/-- A lost channel acts by its state (R91) at the timeout of a command of the purpose `p`. DESIGN CHOICE (log entry 39): at the
timeout of a DISCOVERY read an UNREACHED channel changes nothing and a clear sequence that waits goes on, as R120 says; the
last row of R91 would end it. -/
def Ev.lose (e : Ev) (u : Inv) (p : Purpose) : Ev :=
  match (e.s.channel u).state with
  | .starting | .energized | .stopping => e.emergencyOpen u
  | .faulted .noStop => if (e.s.channel u).coil.isSome then e.emergencyOpen u else e.loseUnconnected u
  | .closing => ((e.setPending u .linkLost).release u .fault).modChannel u fun c => { c with release := true }
  | .idle => e.loseUnconnected u
  | .opening => e.setPending u .linkLost
  | .unreached => if p = .discovery then e else e.loseWaitingClear u
  | .faulted _ | .locked _ => e.loseWaitingClear u
  | .absent => e

/-! ## STATE replies (R82, R86, R88, R89) -/

/-- The report of a STATE reply is recorded and its counter becomes the baseline (R82). -/
def Channel.withReport (c : Channel) (r : StateReport) : Channel :=
  { c with lastOutput := some r.output, faultCode := r.faultCode, power := r.power, baseline := some r.counter }

/-- The energy difference of a reply, modulo 65536 (R82, R117). -/
def energyDifference (counter baseline : Nat) : Nat := (counter + 65536 - baseline) % 65536

/-- A STATE reply with its difference handed to the assigned coil (R82). -/
def Ev.takeReport (e : Ev) (u : Inv) (r : StateReport) : Ev :=
  let c := e.s.channel u
  let e1 := e.modChannel u fun c => c.withReport r
  match c.coil, c.baseline with
  | some j, some b => e1.attribute j (energyDifference r.counter b)
  | _, _ => e1

/-- What a STATE reply does to a channel by the state it held when the reply was taken (R82, R86, R88, R89). -/
def Ev.takeOutput (e : Ev) (u : Inv) (was : ChannelState) (o : OutputState) : Ev :=
  match was, o with
  | .energized, .off | .energized, .fault => e.inverterStopped u
  | .stopping, .off => e.enterOpening u
  | .stopping, .fault => e.inverterStopped u
  | .faulted .noStop, .fault => e.inverterStopped u
  | _, _ => e

/-- A STATE reply taken by the rule of the channel's state; the state is the one held before the difference is handed over
(log entry 28). -/
def Ev.takeStateReply (e : Ev) (u : Inv) (r : StateReport) : Ev :=
  (e.takeReport u r).takeOutput u (e.s.channel u).state r.output

/-! ## Discovery and clear sequences (R76, R100, R101, R120) -/

/-- The state a reply gives a channel with no crosspoint closed (R76, R101). -/
def stateOfOutput : OutputState → ChannelState
  | .off => .idle
  | .fault => .faulted .inverterFault
  | .ramping | .on => .faulted .noStop

/-- The locked-from value by the same table (R76). -/
def lockedFromOfOutput : OutputState → LockedFrom
  | .off => .idle
  | .fault => .faulted .inverterFault
  | .ramping | .on => .faulted .noStop

/-- A reply decides an unconnected channel: baseline set with no difference, and the state, or the locked-from value of a
LOCKED channel, by the table (R76, R101; log entry 19). A channel connected meanwhile keeps its state. -/
def Ev.decideByReply (e : Ev) (u : Inv) (r : StateReport) : Ev :=
  let e1 := e.modChannel u fun c => c.withReport r
  match (e.s.channel u).state with
  | .unreached | .idle => e1.enterState u (stateOfOutput r.output)
  | .faulted _ => if (e.s.channel u).coil.isSome then e1 else e1.enterState u (stateOfOutput r.output)
  | .locked _ => e1.modChannel u fun c => { c with state := .locked (lockedFromOfOutput r.output) }
  | _ => e1

/-- The STATE reply that ends a clear sequence (R101). A channel with its crosspoint closed that reads RAMPING or ON stays
FAULTED(NO_STOP) and raises no CHANNEL_FAULT (log entry 37). DESIGN CHOICE (log entry 54): R86 names a clear sequence as a way
into STOPPING, and R101's table gives no outcome that enters it; the model follows the table, so no reply enters STOPPING here. -/
def Ev.endClear (e : Ev) (u : Inv) (r : StateReport) : Ev :=
  let c := e.s.channel u
  let e1 := e.modChannel u fun x => { x with clearing := false }
  let e2 :=
    if c.state.working then e1.takeStateReply u r
    else if c.state = .faulted .noStop ∧ c.coil.isSome then
      let e3 := e1.takeReport u r
      match r.output with
      | .off => e3.enterOpening u
      | .fault => e3.inverterStopped u
      | .ramping | .on => e3.requestFaultStop .noStop
    else e1.decideByReply u r
  e2.clearServes u

/-- A timeout of its own command ends the clear sequence (R100): a FAULTED(NO_STOP) channel is lost whatever its count (R90),
any other channel takes the outcome of R100. -/
def Ev.failClear (e : Ev) (u : Inv) : Ev :=
  if (e.s.channel u).state = .faulted .noStop then
    ((e.modChannel u fun x => { x with clearing := false }).lose u .clear).clearServes u
  else e.abandonClear u

/-- A DISCOVERY read is answered (R120). -/
def Ev.discovered (e : Ev) (u : Inv) (r : StateReport) : Ev := (e.decideByReply u r).unitAnswered u

/-- A DISCOVERY read has timed out: the channel stays UNREACHED, with CHANNEL_FAULT (R77, R120). -/
def Ev.undiscovered (e : Ev) (u : Inv) : Ev :=
  let e1 := if (e.s.channel u).state = .unreached then e.raise .supervisor .channelFault else e
  e1.unitAnswered u

/-- The DISCOVERY read a channel waits for joins the queue (R119). -/
def Ev.queueWantedDiscovery (e : Ev) (u : Inv) : Ev :=
  if e.s.link.discovery.get u = .wanted then
    (e.modLink fun l => { l with discovery := l.discovery.set u .queued }).enqueue
      { owner := u, command := .readState, purpose := .discovery }
  else e

/-! ## Outcomes of transactions (R111, R112) -/

/-- How a transaction ends (R110). -/
inductive LinkOutcome where
  | accept
  | reject (reason : RejectReason)
  | state (report : StateReport)
  | timeout
  deriving DecidableEq, Repr

/-- The kind of a reply fits a command (R108). -/
def LinkOutcome.fits : LinkOutcome → LinkCommand → Bool
  | .accept, .readState => false
  | .accept, _ => true
  | .reject _, .readState => false
  | .reject _, _ => true
  | .state _, .readState => true
  | .state _, _ => false
  | .timeout, _ => false

/-- The timeout count is applied first (R90, R111). -/
def Channel.countOutcome (o : LinkOutcome) (c : Channel) : Channel :=
  match o with
  | .timeout => { c with timeouts := min 8 (c.timeouts + 1) }
  | _ => { c with timeouts := 0 }

/-- An ACCEPT makes the commanded setpoint the accepted one and clears the reject count (R83, R84). -/
def Channel.acceptSetpoint (kw : Nat) (c : Channel) : Channel :=
  { c with accepted := c.commanded.getD kw, commanded := none, rejects := 0 }

/-- The slice timer of a channel starts (R64). -/
def Ev.startSlice (e : Ev) (u : Inv) : Ev :=
  let t := e.s.settings.timers.slice
  e.modAlloc fun a => { a with slice := a.slice.set u (.running t) }

/-- SET_OUTPUT is accepted (R80, R83). -/
def Ev.setpointAccepted (e : Ev) (u : Inv) (kw : Nat) : Ev :=
  let c := e.s.channel u
  let e1 := e.modChannel u (Channel.acceptSetpoint kw)
  match c.state with
  | .starting =>
    if c.release then e1.enterStopping u else (((e1.enterState u .energized).startSlice u).takeDeferred u)
  | .energized => if c.release then e1.enterStopping u else e1.takeDeferred u
  | _ => e

/-- A REJECT sends the channel to STOPPING: the commanded setpoint is abandoned, save one of STARTING that timed out, which
counts as accepted (R80, R83, R84). -/
def Ev.stopAtReject (e : Ev) (u : Inv) : Ev := (e.modChannel u Channel.withTimedOut).enterStopping u

/-- REJECT(BUSY) of a SET_OUTPUT (R80, R83, R84): retried after the retry delay below the reject limit, and otherwise the
stop path with cause REJECTED; with the release mark set the setpoint is abandoned. -/
def Ev.setpointBusy (e : Ev) (u : Inv) (kw : Nat) : Ev :=
  let t := e.s.settings.timers
  let e1 := e.modChannel u fun c => { c with rejects := min 8 (c.rejects + 1) }
  let c := e1.s.channel u
  if c.state = .starting ∨ c.state = .energized then
    if c.release then e1.stopAtReject u
    else if c.rejects < t.rejectLimit then
      e1.modChannel u fun c => { c with retry := some { command := .setOutput kw, delay := t.retryDelay } }
    else (e1.noteFault u .rejected).stopAtReject u
  else e

/-- REJECT(INTERLOCK) or REJECT(FAULT) of a SET_OUTPUT: the stop path with cause REJECTED at once (R80, R83, R84). -/
def Ev.setpointRefused (e : Ev) (u : Inv) : Ev :=
  let c := e.s.channel u
  if c.state = .starting ∨ c.state = .energized then (e.noteFault u .rejected).stopAtReject u else e

/-- A timeout of a SET_OUTPUT (R80, R83, R112): queued again, unless the channel is lost; with the release mark set the
setpoint is counted as accepted and the channel stops. -/
def Ev.setpointTimeout (e : Ev) (u : Inv) (kw : Nat) (lost : Bool) : Ev :=
  let c := e.s.channel u
  match c.state, c.release with
  | .starting, true => (e.modChannel u fun c => { c with accepted := c.commanded.getD kw }).enterStopping u
  | .energized, true =>
    (e.modChannel u fun c => { c with accepted := max c.accepted (c.commanded.getD kw) }).enterStopping u
  | .starting, false | .energized, false =>
    let e1 := e.modChannel u fun c => { c with timedOut := true }
    if lost then e1 else e1.enqueue { owner := u, command := .setOutput kw, purpose := .control }
  | _, _ => e

/-- A CONTROL STOP_OUTPUT is still wanted: STOPPING or FAULTED(NO_STOP), a clear sequence in progress or not (R84, R112;
log entry 20). -/
def Channel.wantsStop (c : Channel) : Bool := c.state == .stopping || c.state == .faulted .noStop

/-- The outcome of a CONTROL STOP_OUTPUT (R84, R86, R112). -/
def Ev.stopOutcome (e : Ev) (u : Inv) (o : LinkOutcome) (lost : Bool) : Ev :=
  let delay := e.s.settings.timers.retryDelay
  match o with
  | .reject _ =>
    if (e.s.channel u).wantsStop then
      e.modChannel u fun c => { c with retry := some { command := .stopOutput, delay := delay } }
    else e
  | .timeout =>
    if (e.s.channel u).wantsStop && !lost then
      e.enqueue { owner := u, command := .stopOutput, purpose := .control }
    else e
  | _ => e

/-- The outcome of a CLEAR command (R84, R100, R101); when the sequence has ended meanwhile, a STATE reply is taken by the
channel's state. DESIGN CHOICE (log entry 40): the READ_STATE queued at an answer replaces a SET_OUTPUT of the channel that
waits in the queue (R113); a STARTING channel then stays STARTING with its commanded setpoint and nothing queued to send it. -/
def Ev.clearOutcome (e : Ev) (u : Inv) (o : LinkOutcome) : Ev :=
  if (e.s.channel u).clearing then
    match o with
    | .accept | .reject _ => e.enqueue { owner := u, command := .readState, purpose := .clear }
    | .state r => e.endClear u r
    | .timeout => e.failClear u
  else
    match o with
    | .state r => e.takeStateReply u r
    | _ => e

/-- The first outcome of a start-up stop ends it and clears the mark; an ACCEPT holds the discovery read back by the
stop-confirm timeout (R118). -/
def Ev.startStopOutcome (e : Ev) (u : Inv) (o : LinkOutcome) : Ev :=
  let t := e.s.settings.timers.stopConfirm
  let e1 := e.modLink fun l => { l with startMark := l.startMark.set u false }
  match o with
  | .accept => e1.modLink fun l => { l with holdback := l.holdback.set u (.running t) }
  | _ => e1.queueWantedDiscovery u

/-- The state rule of an outcome (R111). -/
def Ev.takeOutcome (e : Ev) (x : LinkEntry) (o : LinkOutcome) (lost : Bool) : Ev :=
  match x.purpose, x.command, o with
  | .control, .setOutput kw, .accept => e.setpointAccepted x.owner kw
  | .control, .setOutput kw, .reject .busy => e.setpointBusy x.owner kw
  | .control, .setOutput _, .reject _ => e.setpointRefused x.owner
  | .control, .setOutput kw, .timeout => e.setpointTimeout x.owner kw lost
  | .control, .stopOutput, o => e.stopOutcome x.owner o lost
  | .poll, _, .state r => e.takeStateReply x.owner r
  | .clear, _, o => e.clearOutcome x.owner o
  | .discovery, _, .state r => e.discovered x.owner r
  | .discovery, _, .timeout => e.undiscovered x.owner
  | .startStop, _, o => e.startStopOutcome x.owner o
  | _, _, _ => e

/-- The count of a channel has reached the lost threshold (R90). -/
def State.countIsLost (s : State) (u : Inv) : Bool :=
  decide (s.settings.timers.lostThreshold ≤ (s.channel u).timeouts)

/-- The outcome of a transaction is handed over (R111): the count, the state rule, then the lost handling. -/
def Ev.handOver (e : Ev) (x : LinkEntry) (o : LinkOutcome) : Ev :=
  let e1 := e.modChannel x.owner (Channel.countOutcome o)
  let lost := decide (o = .timeout) && e1.s.countIsLost x.owner
  let e2 := e1.takeOutcome x o lost
  if lost then e2.lose x.owner x.purpose else e2

/-- A transaction ends (R110): after a timeout the quiet interval of one further reply timeout runs; an outcome to be
discarded is not handed over (R121, R122). -/
def Ev.endTransaction (e : Ev) (t : Transaction) (o : LinkOutcome) : Ev :=
  let e1 := e.modLink fun l =>
    { l with inFlight := none, quiet := if o = .timeout then .running t.replyTimeout else l.quiet }
  if t.discard then e1 else e1.handOver t.entry o

/-- The reply timer expires (R110). -/
def Ev.replyTimedOut (e : Ev) : Ev :=
  match e.s.link.inFlight with
  | some t => e.endTransaction t .timeout
  | none => e

/-- A frame is received whole from a unit address: discarded with no transaction in flight or from another unit, the
transaction's reply when its kind fits and its content passes, and a bad reply otherwise (R109, R110). -/
def Ev.frameReceived (e : Ev) (unit : Nat) (content : Option LinkOutcome) : Ev :=
  match e.s.link.inFlight with
  | none => e
  | some t =>
    if unit ≠ Inv.num t.entry.owner then e
    else
      match content with
      | some o => if o.fits t.entry.command then e.endTransaction t o else e.endTransaction t .timeout
      | none => e.endTransaction t .timeout

/-! ## Crosspoints (R92, R94 to R98) -/

/-- Channel Ui is LOCKED(WELDED) with a locked-from value; its pending causes are spent (R97). DESIGN CHOICE (log entries
17 and 45): a channel locked by its own crosspoint's failure to open keeps its assigned coil, grant setpoint, accepted
setpoint and release mark until RELEASE_LOCKOUT or a warm restart resets them; R87 resets them at a confirmed open alone. -/
def Ev.lockChannel (e : Ev) (u : Inv) (f : LockedFrom) : Ev :=
  (e.modChannel u fun c => { c with pendingCause := none, pendingWelded := false, lateCause := none }).enterState u
    (.locked f)

/-- The locked-from value of a channel whose own crosspoint fails to open (R97). -/
def Channel.lockedFromPending (c : Channel) : LockedFrom :=
  match c.pendingCause with
  | none => .idle
  | some .linkLost => .faulted .linkLost
  | some .rejected => .faulted .rejected
  | some .inverterFault => .faulted .inverterFault

/-- The channel is connected elsewhere (R98): pending cause WELDED, and FAULT_STOP is requested. -/
def Ev.weldedElsewhere (e : Ev) (u : Inv) : Ev :=
  (e.modChannel u fun c => { c with pendingWelded := true }).requestFaultStop .welded

/-- Channel Ui is dealt with by its state when Ui/Cj becomes FAIL_CLOSED (the table of R97). -/
def Ev.weldedChannel (e : Ev) (u : Inv) (j : Nat) : Ev :=
  let c := e.s.channel u
  match c.state with
  | .opening => if c.coil = some j then e.lockChannel u c.lockedFromPending else e.weldedElsewhere u
  | .idle => e.lockChannel u .idle
  | .unreached => e.lockChannel u .unreached
  | .faulted k => if e.s.rowDriveClosed u then e.weldedElsewhere u else e.lockChannel u (.faulted k)
  | .closing | .starting | .energized | .stopping => e.weldedElsewhere u
  | .locked _ | .absent => e

/-- A crosspoint becomes FAIL_CLOSED (R97). -/
def Ev.becomeFailClosed (e : Ev) (u : Inv) (j : Nat) : Ev :=
  let e1 := (e.modCrosspoint u j fun x => { x with state := .failClosed, timer := .stopped }).raise .supervisor
    .crosspointFault
  (e1.lockCoil j).weldedChannel u j

/-- A crosspoint is CLOSED (R94, R79). -/
def Ev.crosspointClosed (e : Ev) (u : Inv) (j : Nat) : Ev :=
  let e1 := e.modCrosspoint u j fun x => { x with state := .closed, timer := .stopped }
  if (e1.s.channel u).coil = some j then e1.channelClosed u else e1

/-- A crosspoint is confirmed open (R95, R96): FAIL_OPEN when its drop mark is set, which clears the mark, raises
CROSSPOINT_FAULT (R194) and is reported to the allocator; the channel is told. -/
def Ev.crosspointOpened (e : Ev) (u : Inv) (x : Crosspoint) : Ev :=
  let e1 := e.modCrosspoint u x.coil fun y =>
    { y with state := if x.drop then .failOpen else .opened, timer := .stopped, drop := false }
  let e2 := if x.drop then (e1.raise .supervisor .crosspointFault).failureReported x.coil else e1
  if (e2.s.channel u).state = .opening ∧ (e2.s.channel u).coil = some x.coil then e2.channelOpened u else e2

/-- A close has failed (R94): the drive is opened, the crosspoint is FAIL_OPEN, and the channel reports it open. -/
def Ev.closeFailed (e : Ev) (u : Inv) (j : Nat) : Ev :=
  let e1 := (e.modCrosspoint u j fun x => { x with drive := false, state := .failOpen, timer := .stopped, drop := false }).raise
    .supervisor .crosspointFault
  let e2 := e1.failureReported j
  if (e2.s.channel u).state = .closing ∧ (e2.s.channel u).coil = some j then e2.channelOpened u else e2

/-- A dropped contactor (R95): drop mark, CROSSPOINT_FAULT, the grant released with cause FAULT, and the connection ended
without a pending cause. -/
def Ev.contactorDropped (e : Ev) (u : Inv) (j : Nat) : Ev :=
  let e1 := (e.modCrosspoint u j fun x => { x with drop := true }).raise .supervisor .crosspointFault
  if (e1.s.channel u).coil = some j then (e1.release u .fault).disconnect u else e1

/-- The feedback input of Ui/Cj takes a level. -/
def Ev.setFeedback (e : Ev) (u : Inv) (j : Nat) (b : Bool) : Ev :=
  e.modLines fun l => { l with feedback := l.feedback.set u (mod1 (l.feedback.get u) j fun _ => b) }

/-- The feedback of Ui/Cj reads closed (R92, R94, R97). -/
def Ev.feedbackReadsClosed (e : Ev) (u : Inv) (j : Nat) : Ev :=
  let e1 := e.setFeedback u j true
  match (e1.s.crosspoint u j).map Crosspoint.state with
  | some .closing => e1.crosspointClosed u j
  | some .opened | some .failOpen => e1.becomeFailClosed u j
  | _ => e1

/-- The feedback of Ui/Cj reads open (R92, R95, R96). -/
def Ev.feedbackReadsOpen (e : Ev) (u : Inv) (j : Nat) : Ev :=
  let e1 := e.setFeedback u j false
  match e1.s.crosspoint u j with
  | some x =>
    match x.state with
    | .opening => e1.crosspointOpened u x
    | .closed => if x.drop then e1 else e1.contactorDropped u j
    | _ => e1
  | none => e1

/-- The feedback timer of Ui/Cj expires (R94, R96). An input that already stands at the awaited level decides the move as
its reading would (log entry 16). -/
def Ev.feedbackTimedOut (e : Ev) (u : Inv) (j : Nat) : Ev :=
  match e.s.crosspoint u j with
  | some x =>
    match x.timer, x.state with
    | .running _, .closing => if e.s.feedbackClosed u j then e.crosspointClosed u j else e.closeFailed u j
    | .running _, .opening => if e.s.feedbackClosed u j then e.becomeFailClosed u j else e.crosspointOpened u x
    | _, _ => e
  | none => e

/-- The crosspoint of a new reach map, with its drive open and the drop mark clear (R92). -/
def newCrosspoint (u : Inv) (j : Nat) : Crosspoint :=
  { inverter := u, coil := j, drive := false, state := .opened, timer := .stopped, drop := false }

/-- A crosspoint put in the matrix takes its state from its feedback: OPEN, or FAIL_CLOSED as R97 states (R92). -/
def Ev.judgeNew (e : Ev) (u : Inv) (j : Nat) : Ev := if e.s.feedbackClosed u j then e.becomeFailClosed u j else e

/-! ## RELEASE_LOCKOUT (R99) -/

/-- The lockouts of a FAIL_CLOSED crosspoint that is released: channel Ui leaves LOCKED when its row has none left, or
drops its pending cause WELDED; coil Cj leaves LOCKED when its column has none left. DESIGN CHOICE (log entry 44): a channel
that is not LOCKED keeps WELDED while another crosspoint of its row is FAIL_CLOSED; R99's sentence on dropping the cause
gives no such condition of its own. -/
def Ev.releaseLockouts (e : Ev) (u : Inv) (j : Nat) : Ev :=
  let e1 :=
    if e.s.rowHasFailClosed u then e
    else
      match (e.s.channel u).state with
      | .locked f => (e.modChannel u Channel.disconnected).enterState u f.toState
      | _ => e.modChannel u Channel.dropWelded
  match e1.s.coil j with
  | some c => if c.state = .locked ∧ !e1.s.columnHasFailClosed j then e1.coilFreed j else e1
  | none => e1

/-- A crosspoint is released (R99): it is OPEN and usable again, and its coil may rejoin a queue. -/
def Ev.releaseCrosspoint (e : Ev) (u : Inv) (j : Nat) : Ev :=
  let wasClosed := (e.s.crosspoint u j).any fun x => x.state == .failClosed
  let e1 := e.modCrosspoint u j fun x => { x with state := .opened }
  let e2 := if wasClosed then e1.releaseLockouts u j else e1
  (e2.joinTest j).duePass

end Sys2Proof.Machine
end

