-- ==== Sys2Proof/Machine/Formats.lean ====
section
/-! DEFINITION. Byte layouts: check codes, request payloads and image records in both directions, the records in responses, the frames of the inverter link and the pyrometer line (R187, R206 to R212). -/

namespace Sys2Proof.Machine

/-! ## Bytes (R206) -/

/-- A value in `k` bytes, most significant byte first. -/
def bigEndian : Nat → Nat → List Byte
  | 0, _ => []
  | k + 1, n => bigEndian k (n / 256) ++ [BitVec.ofNat 8 n]

/-- The value of bytes, most significant byte first. -/
def ofBigEndian (bs : List Nat) : Nat := bs.foldl (fun acc b => acc * 256 + b) 0

def byteOf (n : Nat) : Byte := BitVec.ofNat 8 n

/-- A two's complement value in 16 bits (the recipe correction). -/
def wordOfInt (i : Int) : Nat := (i % 65536).toNat

def intOfWord (w : Nat) : Int := if w < 32768 then (w : Int) else (w : Int) - 65536

/-- A setting of two values, 0 or 1; any other code names nothing (log entry 35). -/
def flagOfCode : Nat → Option Bool
  | 0 => some false
  | 1 => some true
  | _ => none

def codeOfFlag (b : Bool) : Nat := if b then 1 else 0

/-! ## Check codes (R187, R206) -/

/-- Shift one bit out at the top of a `width`-bit register and apply the polynomial. -/
def crcShift (width poly c : Nat) : Nat :=
  if 2 ^ (width - 1) ≤ c then ((c * 2) ^^^ poly) % 2 ^ width else c * 2

/-- Eight shifts. -/
def crcByte (width poly c : Nat) : Nat :=
  let f := crcShift width poly
  f (f (f (f (f (f (f (f c)))))))

/-- The CRC-8 of the control ports: x^8 + x^2 + x + 1, initial value 0 (R187). -/
def crc8 (bs : List Byte) : Nat := bs.foldl (fun c b => crcByte 8 0x07 (c ^^^ b.toNat)) 0

/-- The CRC-16 of the inverter link: x^16 + x^15 + x^2 + 1, initial value FFFFh (R206). -/
def crc16 (bs : List Byte) : Nat := bs.foldl (fun c b => crcByte 16 0x8005 (c ^^^ (b.toNat * 256))) 0xFFFF

/-! ## Payloads shared by requests and image records (R212) -/

/-- The coils of a LINE payload: first, last and rating each. -/
def coilsOf : List Nat → Option (List CoilRange)
  | [] => some []
  | a :: b :: r :: rest => (coilsOf rest).map fun cs => { first := a, last := b, rating := r * 10 } :: cs
  | _ => none

/-- A LINE payload; none when its length is not the one its n and m give. -/
def lineOf : List Nat → Option Geometry
  | np :: n :: rest =>
    match coilsOf (rest.take (3 * n)), rest.drop (3 * n) with
    | some cs, m :: rs =>
      if cs.length = n ∧ rs.length = m then
        some { positions := np, coils := cs, ratings := rs.map (· * 10) }
      else none
    | _, _ => none
  | _ => none

def lineBytes (g : Geometry) : List Byte :=
  [byteOf g.positions, byteOf g.n] ++
    g.coils.flatMap (fun c => [byteOf c.first, byteOf c.last, byteOf (c.rating / 10)]) ++
    [byteOf g.m] ++ g.ratings.map fun r => byteOf (r / 10)

/-- A crosspoint byte: inverter in bits 7..4, coil in bits 3..0. -/
def crosspointOf (b : Nat) : CrosspointName := { inverter := b / 16, coil := b % 16 }

/-- A REACH payload; none when its length is not one more than its count. -/
def reachOf : List Nat → Option (List CrosspointName)
  | k :: rest => if rest.length = k then some (rest.map crosspointOf) else none
  | [] => none

def reachBytes (xs : List Crosspoint) : List Byte :=
  byteOf xs.length :: xs.map fun x => byteOf (Inv.num x.inverter * 16 + x.coil)

def bitRateOf : Nat → Option BitRate
  | 0 => some .kbit57
  | 1 => some .kbit115
  | 2 => some .kbit230
  | _ => none

def bitRateCode : BitRate → Nat
  | .kbit57 => 0
  | .kbit115 => 1
  | .kbit230 => 2

/-- A TIMERS payload of 19 bytes; none for another length or a bit-rate code that names nothing. -/
def timersOf : List Nat → Option TimerSettings
  | [sl, p1, p0, rt, br, lt, rl, d1, d0, s1, s0, f1, f0, pt, m1, m0, q1, q0, hl] =>
    (bitRateOf br).map fun rate =>
      { slice := sl, pollPeriod := p1 * 256 + p0, replyTimeout := rt, bitRate := rate, lostThreshold := lt
        rejectLimit := rl, retryDelay := d1 * 256 + d0, stopConfirm := s1 * 256 + s0
        feedbackTimeout := f1 * 256 + f0, pushTimeout := pt, measureTimeout := m1 * 256 + m0
        pressSilence := q1 * 256 + q0, holdLimit := hl }
  | _ => none

def timersBytes (t : TimerSettings) : List Byte :=
  [byteOf t.slice] ++ bigEndian 2 t.pollPeriod ++
    [byteOf t.replyTimeout, byteOf (bitRateCode t.bitRate), byteOf t.lostThreshold, byteOf t.rejectLimit] ++
    bigEndian 2 t.retryDelay ++ bigEndian 2 t.stopConfirm ++ bigEndian 2 t.feedbackTimeout ++
    [byteOf t.pushTimeout] ++ bigEndian 2 t.measureTimeout ++ bigEndian 2 t.pressSilence ++ [byteOf t.holdLimit]

/-- An URGENCY payload of 11 bytes. -/
def urgencyOf : List Nat → Option UrgencyMap
  | [h0, h1, h2, h3, g0, g1, g2, g3, b1, b2, b3] =>
    some { heating := ⟨h0, h1, h2, h3⟩, holding := ⟨g0, g1, g2, g3⟩, b1 := b1, b2 := b2, b3 := b3 }
  | _ => none

def bandBytes (b : BandClasses) : List Byte := [byteOf b.band0, byteOf b.band1, byteOf b.band2, byteOf b.band3]

def urgencyBytes (u : UrgencyMap) : List Byte :=
  bandBytes u.heating ++ bandBytes u.holding ++ [byteOf u.b1, byteOf u.b2, byteOf u.b3]

def policyOf : Nat → Option Policy
  | 0 => some .divert
  | 1 => some .deliver
  | _ => none

def policyCode : Policy → Nat
  | .divert => 0
  | .deliver => 1

/-- The nine bytes of the long form of SET_LINE_LIMIT: the line limit and the settings after it. -/
def limitsOf : List Nat → Option (Nat × LimitSettings)
  | [l1, l0, t1, t0, m, lo, hi, ap, po] =>
    match flagOfCode ap, policyOf po with
    | some a, some p =>
      some (l1 * 256 + l0,
        { threshold := t1 * 256 + t0, window := m, lowMark := lo, highMark := hi, autoPurge := a, policy := p })
    | _, _ => none
  | _ => none

def limitsBytes (limit : Nat) (l : LimitSettings) : List Byte :=
  bigEndian 2 limit ++ bigEndian 2 l.threshold ++
    [byteOf l.window, byteOf l.lowMark, byteOf l.highMark, byteOf (codeOfFlag l.autoPurge),
      byteOf (policyCode l.policy)]

/-- The four learning bytes. -/
def learningOf : List Nat → Option LearningSettings
  | [o, st, db, li] => (flagOfCode o).map fun b => { on := b, step := st, deadBand := db, limit := li }
  | _ => none

def learningBytes (l : LearningSettings) : List Byte :=
  [byteOf (codeOfFlag l.on), byteOf l.step, byteOf l.deadBand, byteOf l.limit]

/-- The fields of a RECIPE payload after its 12 fractions. -/
def recipeTailOf (grade target : Nat) (fractions : List Nat) : List Nat → Option RecipeData
  | [s1, s0, h1, h0, l1, l0, a1, a0, b1, b0, lb, c1, c0] =>
    (flagOfCode lb).map fun block =>
      { grade := grade, target := target, fractions := fractions, soak := s1 * 256 + s0, maxHold := h1 * 256 + h0
        lossRate := l1 * 256 + l0, windowLow := a1 * 256 + a0, windowHigh := b1 * 256 + b0, learningBlock := block
        correction := intOfWord (c1 * 256 + c0) }
  | _ => none

/-- A RECIPE payload of 30 bytes: the index and the fields. -/
def recipeOfBytes : List Nat → Option (Nat × RecipeData)
  | i :: g1 :: g0 :: t1 :: t0 :: rest =>
    (recipeTailOf (g1 * 256 + g0) (t1 * 256 + t0) (rest.take 12) (rest.drop 12)).map fun d => (i, d)
  | _ => none

def recipeBytes (i : Nat) (r : RecipeData) : List Byte :=
  [byteOf i] ++ bigEndian 2 r.grade ++ bigEndian 2 r.target ++ (r.fractions.map byteOf) ++ bigEndian 2 r.soak ++
    bigEndian 2 r.maxHold ++ bigEndian 2 r.lossRate ++ bigEndian 2 r.windowLow ++ bigEndian 2 r.windowHigh ++
    [byteOf (codeOfFlag r.learningBlock)] ++ bigEndian 2 (wordOfInt r.correction)

/-! ## Codes and records in responses (R207, R208) -/

def contentCode : Slot → Nat
  | .gap => 0
  | .billet _ => 1
  | .undeclared => 2

def thermalCode : Thermal → Nat
  | .heating => 0
  | .soaking _ => 1
  | .ready _ => 2
  | .overheld _ => 3

def suspectCode : Option Suspect → Nat
  | none => 0
  | some .declared => 1
  | some .energyUnknown => 2

def Thermal.soakRemaining : Thermal → Option Nat
  | .soaking k => some k
  | _ => none

def Thermal.holdElapsed : Thermal → Option Nat
  | .ready h | .overheld h => some h
  | _ => none

/-- The slot record of READ_TRACK, 38 bytes (R192, R208). DESIGN CHOICE (log entry 52): the presence byte and the billet's fields
of a GAP or UNDECLARED slot, offsets 3 to 37, are sent as 0; R192 and R208 do not say what they hold. -/
def slotRecordBytes (r : SlotRecord) : List Byte :=
  let head := [byteOf r.position, byteOf (contentCode r.content), byteOf r.coil]
  match r.content with
  | .billet b =>
    head ++
      [byteOf (bit b.charge.isSome 0 + bit b.target.isSome 1 + bit b.thermal.soakRemaining.isSome 2 +
        bit b.thermal.holdElapsed.isSome 3)] ++
      bigEndian 4 b.id ++ bigEndian 2 b.grade ++ [byteOf b.recipe, byteOf (thermalCode b.thermal)] ++
      bigEndian 4 (b.charge.getD 0) ++ bigEndian 4 b.delivered ++ bigEndian 4 (b.target.getD 0) ++
      bigEndian 4 b.loss ++ bigEndian 2 (b.thermal.soakRemaining.getD 0) ++
      bigEndian 2 (b.thermal.holdElapsed.getD 0) ++
      [byteOf (suspectCode b.suspect), byteOf (codeOfFlag b.reject)] ++ bigEndian 4 r.demand
  | _ => head ++ List.replicate 35 0

def cancelCode : CancelReason → Nat
  | .press => 1
  | .hold => 2
  | .mode => 3
  | .restart => 4

def orderStateCode : OrderSlot → Nat
  | .free => 0
  | .pending _ _ _ => 1
  | .serving _ _ _ _ => 2
  | .filled _ _ _ => 3
  | .cancelled _ _ _ => 4
  | .expired _ _ => 5

def slotCode : SlotName → Nat
  | .a => 0
  | .b => 1

/-- The deadline remaining (R148): an EXPIRED slot holds it as 0, a constant of the state. -/
def OrderSlot.deadline : OrderSlot → Option Nat
  | .pending _ _ d | .serving _ _ d _ => d
  | .expired _ _ => some 0
  | _ => none

def OrderSlot.servedPush : OrderSlot → Option Nat
  | .serving _ _ _ p => some p
  | _ => none

def OrderSlot.result : OrderSlot → Option OrderResult
  | .filled _ _ r => some r
  | _ => none

def OrderSlot.cancelReason : OrderSlot → Option CancelReason
  | .cancelled _ _ r => some r
  | _ => none

/-- The order slot record of READ_ORDERS, 22 bytes. -/
def orderRecordBytes (n : SlotName) (x : OrderSlot) : List Byte :=
  let temp := x.result.bind OrderResult.temperature
  [byteOf (slotCode n), byteOf (orderStateCode x),
    byteOf (bit x.deadline.isSome 0 + bit x.servedPush.isSome 1 + bit x.result.isSome 2 + bit temp.isSome 3 +
      bit x.cancelReason.isSome 4),
    byteOf x.tag, byteOf x.rank] ++
    bigEndian 2 (x.deadline.getD 0) ++ [byteOf (x.servedPush.getD 0), byteOf ((x.cancelReason.map cancelCode).getD 0)] ++
    bigEndian 4 ((x.result.map OrderResult.id).getD 0) ++ bigEndian 2 ((x.result.map OrderResult.grade).getD 0) ++
    bigEndian 4 ((x.result.map OrderResult.charge).getD 0) ++ [byteOf ((x.result.map OrderResult.push).getD 0)] ++
    bigEndian 2 (temp.getD 0)

def outcomeCode : ClassOutcome → Nat
  | .delivered => 0
  | .diverted .cold => 1
  | .diverted .hot => 2
  | .diverted .unmeasured => 3
  | .diverted .rejectBound => 4
  | .diverted .underheated => 5
  | .diverted .lineFault => 6

/-- The history entry of READ_HISTORY, 15 bytes. -/
def historyBytes (h : HistoryEntry) : List Byte :=
  bigEndian 4 h.id ++ bigEndian 2 h.grade ++ bigEndian 4 h.charge ++ [byteOf (outcomeCode h.outcome)] ++
    [byteOf (bit h.temperature.isSome 0 + bit h.tag.isSome 1)] ++ bigEndian 2 (h.temperature.getD 0) ++
    [byteOf (h.tag.getD 0)]

def reasonCode : Reason → Nat
  | .notPermitted => 0x01
  | .badFrame => 0x02
  | .unknownRequest => 0x03
  | .badLength => 0x04
  | .outOfRange => 0x05
  | .wrongMode => 0x06
  | .busy => 0x07
  | .noSlot => 0x08
  | .duplicate => 0x09
  | .inUse => 0x0A
  | .notFound => 0x0B
  | .notUsable => 0x0C
  | .tooLate => 0x0D

/-- The items of a payload the manual gives no layout for, as bytes: a free value, with the room the other bytes leave in
a payload of at most 1023 bytes (R191; log entry 6). -/
def unlaidBytes {α : Type} (items : α) (laid : List Byte) : List Byte := (Config.freeBytes items).take (1023 - laid.length)

/-- The payload of a DATA response: the records of R208 as laid out there, the values of READ_TRACK_FIELD each
right-aligned in 4 bytes (R193), in the order of the rule that gives the items; the other items as free bytes. -/
def Payload.bytes : Payload → List Byte
  | .track verified positions cradle slots =>
    let records := slots.flatMap slotRecordBytes
    unlaidBytes (verified, positions, cradle) records ++ records
  | .trackField verified field contents values =>
    let fields := values.flatMap (bigEndian 4)
    unlaidBytes (verified, field, contents) fields ++ fields
  | .orders a b supply count window low high setting remaining press silent =>
    let records := orderRecordBytes .a a ++ orderRecordBytes .b b
    records ++ unlaidBytes (supply, count, window, low, high, setting, remaining, press, silent) records
  | .history held count entries =>
    let records := entries.flatMap historyBytes
    unlaidBytes (held, count) records ++ records
  | p => unlaidBytes p []

/-- A response before its CRC-8: kind, echoed code, and the reason or the payload length and the payload (R191, R207). -/
def responseBody : ShiftedResponse → List Byte
  | .none code => [0x00, code]
  | .held { code, body := .accepted } => [0x01, code]
  | .held { code, body := .refused reason } => [0x02, code, byteOf (reasonCode reason)]
  | .held { code, body := .data p } => [0x03, code] ++ bigEndian 2 p.bytes.length ++ p.bytes

/-- The response frame (R191, R207). -/
def responseFrame (r : ShiftedResponse) : List Byte := responseBody r ++ [byteOf (crc8 (responseBody r))]

/-- The filler value of the control ports (R206). -/
def filler : Byte := 0xFF

/-- What a port shifts out in the first `n` bytes of a status read or a FETCH: its status byte, the response of a FETCH,
and the filler from there on (R186, R191). -/
def Shifted.bytes (x : Shifted) (n : Nat) : List Byte :=
  let out := x.status :: (x.response.map responseFrame).getD []
  out.take n ++ List.replicate (n - out.length) filler

/-- The transactions of a port, by the selector (R186, R207): any value that names none is a status read. -/
inductive Transfer where
  | status | request | fetch
  deriving DecidableEq, Repr

def transferOf (selector : Byte) : Transfer :=
  if selector = 0xA5 then .request else if selector = 0xC3 then .fetch else .status

/-! ## Inverter link frames (R209) -/

def commandBody : LinkCommand → List Byte
  | .setOutput kw => [0x01, 2] ++ bigEndian 2 kw
  | .stopOutput => [0x02, 0]
  | .readState => [0x03, 0]
  | .clearFault => [0x04, 0]

/-- A command frame. -/
def commandFrame (x : LinkEntry) : List Byte :=
  let bs := byteOf (Inv.num x.owner) :: commandBody x.command
  bs ++ bigEndian 2 (crc16 bs)

def rejectReasonOf : Nat → Option RejectReason
  | 1 => some .busy
  | 2 => some .interlock
  | 3 => some .fault
  | _ => none

def outputStateOf : Nat → Option OutputState
  | 0 => some .off
  | 1 => some .ramping
  | 2 => some .on
  | 3 => some .fault
  | _ => none

/-- The fault code is present exactly with output FAULT (R109). -/
def reportConsistent (r : StateReport) : Bool := (r.output == .fault) == r.faultCode.isSome

/-- The reply a kind and a payload spell; none when they spell none of R209. -/
def replyOf : Nat → List Nat → Option LinkOutcome
  | 0x81, [] => some .accept
  | 0x82, [r] => (rejectReasonOf r).map .reject
  | 0x83, [o, c1, c0, p1, p0] =>
    (outputStateOf o).bind fun st =>
      let r : StateReport := { output := st, counter := c1 * 256 + c0, power := p1 * 256 + p0, faultCode := none }
      if reportConsistent r then some (.state r) else none
  | 0x83, [o, c1, c0, p1, p0, f1, f0] =>
    (outputStateOf o).bind fun st =>
      let r : StateReport :=
        { output := st, counter := c1 * 256 + c0, power := p1 * 256 + p0, faultCode := some (f1 * 256 + f0) }
      if reportConsistent r then some (.state r) else none
  | _, _ => none

/-- The content of a reply frame that passes the checks on its own bytes (R109): its CRC-16, its length, its values. -/
def replyOfFrame (frame : List Byte) : Option LinkOutcome :=
  let n := frame.length
  let ns := frame.map BitVec.toNat
  match ns with
  | _ :: kind :: len :: rest =>
    if n = len + 5 ∧ ofBigEndian (ns.drop (n - 2)) = crc16 (frame.take (n - 2)) then replyOf kind (rest.take len)
    else none
  | _ => none

/-- A frame of bytes is received (R109, R110); one with no byte has no unit address and is a bad reply. -/
def Ev.bytesReceived (e : Ev) (frame : List Byte) : Ev :=
  match frame with
  | [] =>
    match e.s.link.inFlight with
    | some t => e.endTransaction t .timeout
    | none => e
  | unit :: _ => e.frameReceived unit.toNat (replyOfFrame frame)

/-! ## Pyrometer frames (R210, R211) -/

def pyroStatusOf : Nat → Option PyroStatus
  | 0 => some .valid
  | 1 => some .lowSignal
  | 2 => some .overrange
  | _ => none

/-- The reading of the four characters after a preamble, none when the frame fails its check (R211). -/
def readingOf : List PyroChar → Option (PyroStatus × Nat)
  | [st, hi, lo, sum] =>
    let t := hi.value.toNat * 256 + lo.value.toNat
    let ok := !st.framingFault && !hi.framingFault && !lo.framingFault && !sum.framingFault &&
      decide ((0xA5 + st.value.toNat + hi.value.toNat + lo.value.toNat) % 256 = sum.value.toNat) && decide (t ≤ 2000)
    if ok then (pyroStatusOf st.value.toNat).map fun s => (s, t) else none
  | _ => none

/-- The hunt from the character after a discarded frame's preamble: the characters from the next preamble value on, which
begin the next frame (R211; log entry 30). -/
def huntAgain : List PyroChar → List PyroChar
  | [] => []
  | c :: cs => if c.value = 0xA5 then c :: cs else huntAgain cs

end Sys2Proof.Machine
end

