-- ==== Sys2Proof/Machine/Ports.lean ====
section
/-! DEFINITION. The control ports: a request transaction from its frame to its answer, roles, FETCH, the press silence timer (R164, R185 to R191). -/

namespace Sys2Proof.Machine

/-- What the owning block makes of a request (R189): an answer with nothing changed, `used` being the free numbers a read
took; or a changed state, with an answer, or none while the answer is held back (R170). -/
inductive Taken where
  | answer (body : ResponseBody) (used : Nat)
  | change (e : Ev) (body : Option ResponseBody)
  deriving DecidableEq, Repr

def Taken.refuse (r : Reason) : Taken := .answer (.refused r) 0

def Taken.accept (e : Ev) : Taken := .change e (some .accepted)

def Taken.read (p : Payload) : Taken := .answer (.data p) 0

def State.modPort (s : State) (p : Port) (f : PortRec → PortRec) : State :=
  { s with ports := s.ports.set p (f (s.ports.get p)) }

/-! ## Chip select (R185, R186) -/

/-- What the port takes at the assertion of chip select: the status byte, and the port state by which a FETCH acts (R186,
R191). Where no earlier command asserted it, the command that ends the transaction does (log entry 46). -/
def PortRec.opened (r : PortRec) (p : Port) : Byte × PortState :=
  match r.select with
  | .selected status start => (status, start)
  | .released | .ignored => (r.statusByte p, r.state)

/-- The assertion of chip select (R186). One that is asserted already stays as it is (log entry 3). -/
def PortRec.assert (r : PortRec) (p : Port) : PortRec :=
  match r.select with
  | .released => { r with select := .selected (r.statusByte p) r.state }
  | .selected _ _ | .ignored => r

/-- Chip select over a hardware reset: a transaction in progress is ignored up to its end (R185). -/
def Selection.afterReset : Selection → Selection
  | .released => .released
  | .selected _ _ | .ignored => .ignored

/-- Chip select is deasserted. -/
def State.deselect (s : State) (p : Port) : State := s.modPort p fun x => { x with select := .released }

/-- A transaction ends: one whose chip select is ignored does nothing (R185). -/
def State.ended (s : State) (p : Port) (f : State → State) : State :=
  if (s.ports.get p).select = .ignored then s.deselect p else f s

/-- A transaction that ends has shifted out the status byte taken at its assertion, which no change since then has altered
(R186), and for a FETCH a response; chip select is deasserted. -/
def State.shiftOut (s : State) (p : Port) (r : Option ShiftedResponse) : State :=
  s.modPort p fun x => { x with select := .released, shifted := some { status := (x.opened p).1, response := r } }

/-- A press frame that passes its check, or a press FETCH, restarts the press silence timer (R164). -/
def State.pressHeard (s : State) (p : Port) : State :=
  match p with
  | .press => { s with orders := s.orders.restartSilence s.settings.timers.pressSilence }
  | _ => s

/-- The answer becomes the held response (R189). -/
def State.hold (s : State) (p : Port) (code : Byte) (body : ResponseBody) : State :=
  s.modPort p fun x => { x with state := .ready { code := code, body := body } }

/-! ## Request codes, roles and lengths (R189, R190, R207) -/

/-- The request code names a request. -/
def codeKnown (c : Nat) : Bool :=
  inRange 0x01 0x07 c || inRange 0x10 0x14 c || inRange 0x20 0x24 c || inRange 0x30 0x39 c || inRange 0x40 0x43 c ||
    inRange 0x50 0x53 c || inRange 0x60 0x64 c || inRange 0x70 0x76 c || c == 0x7F

/-- The role check looks at the request code alone (R190). -/
def permitted (p : Port) (c : Nat) : Bool :=
  inRange 0x01 0x07 c ||
    (match p with
      | .press => inRange 0x10 0x14 c
      | .feeder => inRange 0x20 0x24 c
      | .supervisor => decide (0x30 ≤ c))

/-! ## A request (R186 to R189) -/

/-- A request in hand is taken by its owning block, and its answer is stored (R189). DESIGN CHOICE (log entry 47): the port's
checks and the owning block's taking are one step, so a port is seen in PROCESSING only while START is held. -/
def State.takeRequest (s : State) (p : Port) (code : Byte) (take : State → Taken) : State :=
  match take (s.modPort p fun x => { x with state := .processing code }) with
  | .answer body used => ({ s with free := s.free + used }).hold p code body
  | .change e (some body) => (e.finish s).hold p code body
  | .change e none => e.finish s

/-- A request transaction whose frame passes its check, with a request code that names a request and a length that request
takes: discarded with OVERRUN while the port is not IDLE (R188), refused NOT_PERMITTED outside the port's role, and
otherwise taken. -/
def State.request (s : State) (p : Port) (code : Byte) (take : State → Taken) : State :=
  s.ended p fun s =>
    let s1 := (s.shiftOut p none).pressHeard p
    if (s.ports.get p).state ≠ .idle then s1.modPort p fun x => { x with overrun := true }
    else if permitted p code.toNat then s1.takeRequest p code take
    else s1.hold p code (.refused .notPermitted)

/-! ## FETCH (R188, R191) -/

/-- The response a FETCH shifts out by the port's state (R191). -/
def PortState.toFetch : PortState → ShiftedResponse
  | .idle => .none 0
  | .processing code => .none code
  | .ready r => .held r

/-- The port after a FETCH: OVERRUN cleared, and IDLE when the held response it began with was shifted out whole (R188, R191). A
FETCH that began in PROCESSING leaves an answer that came meanwhile (log entry 46). -/
def PortRec.afterFetch (start : PortState) (whole : Bool) (r : PortRec) : PortRec :=
  { r with
    overrun := false
    state := match start with
      | .ready _ => if whole then .idle else r.state
      | .idle | .processing _ => r.state }

/-- The response a FETCH shifts out: by the port's state at its start (R191). -/
def PortRec.response (r : PortRec) (p : Port) : ShiftedResponse := (r.opened p).2.toFetch

/-- A FETCH that shifts its status byte whole ends. -/
def State.fetchEnds (s : State) (p : Port) (whole : Bool) : State :=
  let r := s.ports.get p
  ((s.shiftOut p (some (r.response p))).pressHeard p).modPort p (PortRec.afterFetch (r.opened p).2 whole)

/-- A FETCH transaction; one that ends before the status byte is shifted whole has no effect (R186). -/
def State.fetched (s : State) (p : Port) (extent : FetchExtent) : State :=
  s.ended p fun s =>
    match extent with
    | .noStatus => s.deselect p
    | .partly => s.fetchEnds p false
    | .whole => s.fetchEnds p true

/-! ## A request frame as bytes (R187) -/

/-- The frame check (R187). -/
def frameOk (bs : List Byte) : Bool :=
  match bs with
  | _ :: len :: _ =>
    decide (len.toNat ≤ 56) && bs.length == len.toNat + 3 &&
      crc8 (bs.take (len.toNat + 2)) == ((bs.getLast?).map BitVec.toNat).getD 256
  | _ => false

/-- A frame that fails its check is answered REFUSED BAD_FRAME while the port is IDLE, and otherwise discarded with
OVERRUN (R187, R188). -/
def State.badFrame (s : State) (p : Port) (bs : List Byte) : State :=
  let s1 := s.shiftOut p none
  if (s.ports.get p).state = .idle then s1.hold p (bs.head?.getD 0) (.refused .badFrame)
  else s1.modPort p fun x => { x with overrun := true }

/-- A frame that passes its check and is refused by the port's own checks (R189). -/
def State.refusedAtPort (s : State) (p : Port) (code : Byte) (r : Reason) : State :=
  let s1 := (s.shiftOut p none).pressHeard p
  if (s.ports.get p).state = .idle then s1.hold p code (.refused r)
  else s1.modPort p fun x => { x with overrun := true }

end Sys2Proof.Machine
end

