-- ==== Sys2Proof/Machine/LineEvents.lean ====
section
/-! DEFINITION. The timers of the line and the levels and readings at its inputs: LINE_STOP, line second, slices, push and measure timers, press silence, hold limit, feedback, the pyrometer (R17, R65, R94 to R97, R137, R140 to R142, R152, R164, R174, R178, R211). -/

namespace Sys2Proof.Machine

/-! ## LINE_STOP (R178) -/

/-- The input becomes asserted. A level that already stands is no change. -/
def execLineStopAsserted (s : State) : Host.Outcome State Fault Refusal :=
  .next
    (if s.lines.lineStop then s
      else s.event fun e => (e.modLines fun l => { l with lineStop := true }).requestFaultStop .lineStop)

/-- The input becomes deasserted: the mode does not change. -/
def execLineStopDeasserted (s : State) : Host.Outcome State Fault Refusal :=
  .next (s.event fun e => e.modLines fun l => { l with lineStop := false })

/-! ## The line second (R16, R17, R152) -/

/-- One line second: the billets, then the deadlines of the order slots, and the timer restarts (log entry 13). -/
def Ev.lineSecond (e : Ev) : Ev :=
  ((e.ageTrack.countDeadline .a).countDeadline .b).modTrack fun t => { t with lineSecond := .running 1 }

/-- The line-second timer runs from the end of hardware reset on. -/
def State.secondRuns (s : State) : Bool := s.track.lineSecond.isRunning

def execLineSecond (s : State) : Host.Outcome State Fault Refusal :=
  .next (if s.secondRuns then s.event Ev.lineSecond else s)

/-- The billet at a position is SOAKING and its soak remaining reaches 0 at this line second (R17). -/
def State.soakEnds (s : State) (position : Nat) : Bool :=
  match at1 s.track.slots position with
  | some (.billet b) =>
    match b.thermal with
    | .soaking k => decide (k ≤ 1)
    | _ => false
  | _ => false

/-- The billet at a position is READY and its hold elapsed passes the maximum hold at this line second (R17). -/
def State.holdPasses (s : State) (position : Nat) : Bool :=
  match at1 s.track.slots position with
  | some (.billet b) =>
    match b.thermal with
    | .ready h => decide ((s.recipeOf b).maxHold < min 65535 (h + 1))
    | _ => false
  | _ => false

/-- The slot is PENDING with a deadline that reaches 0 at this line second (R152). -/
def State.deadlineEnds (s : State) (n : SlotName) : Bool :=
  match s.orders.get n with
  | .pending _ _ (some d) => decide (d ≤ 1)
  | _ => false

/-- SOAK_REMAINING_ZERO is a line second with this outcome (log entry 4). -/
def execSoakRemainingZero (position : Nat) (s : State) : Host.Outcome State Fault Refusal :=
  .next (if s.secondRuns && s.track.verified && s.soakEnds position then s.event Ev.lineSecond else s)

/-- HOLD_ELAPSED_EXCEEDED is a line second with this outcome (log entry 4). -/
def execHoldElapsedExceeded (position : Nat) (s : State) : Host.Outcome State Fault Refusal :=
  .next (if s.secondRuns && s.track.verified && s.holdPasses position then s.event Ev.lineSecond else s)

/-- ORDER_DEADLINE_EXPIRY is a line second with this outcome (log entry 4). -/
def execOrderDeadlineExpiry (slot : SlotName) (s : State) : Host.Outcome State Fault Refusal :=
  .next (if s.secondRuns && s.deadlineEnds slot then s.event Ev.lineSecond else s)

/-! ## Slices (R65, R66) -/

/-- Slice expiry: the grant is released to a challenger, or renewed and perhaps raised. -/
def Ev.sliceExpired (e : Ev) (u : Inv) (j : Nat) : Ev :=
  if e.s.hasChallenger u j then e.release u .slice else (e.startSlice u).raiseSetpoint u j

/-- SLICE_EXPIRY; a timer that is stopped does not expire (R64). -/
def execSliceExpiry (channel : Inv) (s : State) : Host.Outcome State Fault Refusal :=
  .next
    (match s.alloc.slice.get channel, s.alloc.grants.get channel with
      | .running _, some g => s.event fun e => e.sliceExpired channel g.coil
      | _, _ => s)

/-! ## Push timer and measure timer (R137, R142) -/

/-- PUSH_TIMEOUT (R137): the late number is set, and the loss is reported with cause PUSH_TIMEOUT. -/
def execPushTimeout (s : State) : Host.Outcome State Fault Refusal :=
  .next
    (match s.push.timer, s.push.record with
      | .running _, some r =>
        s.event fun e => (e.modPush fun p => { p with late := r.number }).pushLost r .pushTimeout
      | _, _ => s)

/-- The outcome of the unmeasured policy (R142). -/
def policyOutcome : Policy → ClassOutcome
  | .divert => .diverted .unmeasured
  | .deliver => .delivered

/-- MEASURE_TIMEOUT (R142). -/
def execMeasureTimeout (s : State) : Host.Outcome State Fault Refusal :=
  .next
    (match s.push.measureTimer, s.push.station with
      | .running _, some m => s.event fun e => e.classifyMeasured m (policyOutcome s.settings.limits.policy) none
      | _, _ => s)

/-! ## Press silence and hold limit (R164, R174) -/

/-- The press silence timer restarts, and in RUN or DRAIN the cause SILENT is handed (R164). -/
def Ev.pressSilent (e : Ev) : Ev :=
  let setting := e.s.settings.timers.pressSilence
  let e1 := e.modOrders fun o => { o with silence := timerFrom setting }
  match e.s.line.mode with
  | .run | .drain => e1.addHold .silent
  | _ => e1

/-- PRESS_SILENCE_EXPIRY. -/
def execPressSilenceExpiry (s : State) : Host.Outcome State Fault Refusal :=
  .next (if s.orders.silence.isRunning then s.event Ev.pressSilent else s)

/-- HOLD_LIMIT is raised, and with auto-purge on the line goes to PURGE by way of STOPPING (R174). -/
def Ev.holdLimitReached (e : Ev) : Ev :=
  let e1 := (e.modLine fun l => { l with holdTimer := .stopped }).raise .supervisor .holdLimit
  if e1.s.settings.limits.autoPurge then e1.byWayOfStopping .purge else e1

/-- HOLD_LIMIT_EXPIRY; the timer runs in HOLD alone. -/
def execHoldLimitExpiry (s : State) : Host.Outcome State Fault Refusal :=
  .next (if s.line.holdTimer.isRunning then s.event Ev.holdLimitReached else s)

/-! ## Crosspoint feedback (R92, R94 to R97) -/

/-- FEEDBACK_CLOSED. -/
def execFeedbackClosed (inverter : Inv) (coil : Nat) (s : State) : Host.Outcome State Fault Refusal :=
  .next (s.event fun e => e.feedbackReadsClosed inverter coil)

/-- FEEDBACK_OPEN. -/
def execFeedbackOpen (inverter : Inv) (coil : Nat) (s : State) : Host.Outcome State Fault Refusal :=
  .next (s.event fun e => e.feedbackReadsOpen inverter coil)

/-- FEEDBACK_TIMEOUT. -/
def execFeedbackTimeout (inverter : Inv) (coil : Nat) (s : State) : Host.Outcome State Fault Refusal :=
  .next (s.event fun e => e.feedbackTimedOut inverter coil)

/-! ## The pyrometer (R140, R141, R211) -/

/-- A reading is taken by the station's state (R140). -/
def Ev.readingTaken (e : Ev) (status : PyroStatus) (t : Nat) : Ev :=
  match e.s.push.station, status with
  | some m, .valid => e.classifyMeasured m (outcomeOfReading (e.s.recipeOf m.billet) t) (some t)
  | _, _ => e

/-- The receiver keeps the characters of a frame in reception, none while it hunts. -/
def Ev.keepPyro (e : Ev) (chars : List PyroChar) : Ev := e.modLines fun l => { l with pyro := chars }

/-- A preamble character (R210). -/
def preamble : PyroChar := { value := 0xA5, framingFault := false }

/-- A frame of a preamble and four characters is received whole: a reading, or discarded and the hunt taken up again from
the character after its preamble (R211). -/
def Ev.pyroFrame (e : Ev) (first : PyroChar) (chars : List PyroChar) : Ev :=
  match first.framingFault, readingOf chars with
  | false, some (status, t) => (e.keepPyro []).readingTaken status t
  | _, _ => e.keepPyro (huntAgain chars)

/-- One character on the pyrometer line (R211): hunting, a preamble value begins a frame; in a frame, its fifth character
ends it. -/
def Ev.pyroChar (e : Ev) (c : PyroChar) : Ev :=
  match e.s.lines.pyro with
  | [] => e.keepPyro (huntAgain [c])
  | first :: rest =>
    if rest.length < 3 then e.keepPyro (first :: rest ++ [c]) else e.pyroFrame first (rest ++ [c])

/-- PYROMETER_READING: the reading of a frame that passes, begun by a preamble of its own or by the characters kept of a
damaged frame; one whose temperature is not 0..2000 fails its check and is no reading (R211; log entry 30). -/
def execPyrometerReading (status : PyroStatus) (temperature : Nat) (s : State) : Host.Outcome State Fault Refusal :=
  .next
    (s.event fun e =>
      let e1 := e.keepPyro []
      if temperature ≤ 2000 then e1.readingTaken status temperature else e1)

/-- PYROMETER_BAD_FRAME: four characters, taken one by one (R211). They follow a preamble when the receiver hunts, and go
on with the frame a preamble inside a damaged frame has begun otherwise (log entry 30). -/
def execPyrometerBadFrame (chars : List PyroChar) (s : State) : Host.Outcome State Fault Refusal :=
  .next
    (s.event fun e =>
      (if e.s.lines.pyro.isEmpty then e.keepPyro [preamble] else e).forEach chars fun c e => e.pyroChar c)

/-- PYROMETER_CHARACTER_GAP: the frame in reception is discarded and the hunt restarts (R211). -/
def execPyrometerCharacterGap (s : State) : Host.Outcome State Fault Refusal :=
  .next (s.event fun e => e.keepPyro [])

end Sys2Proof.Machine
end

