-- ==== Sys2Proof/Machine/LinkEvents.lean ====
section
/-! DEFINITION. The timers and frames of the inverter link and the channels: poll period, reply timer, quiet interval, retry delay, stop-confirm, hold-back, the next transaction, replies (R84, R88, R91, R107 to R118). -/

namespace Sys2Proof.Machine

/-- A poll-period expiry: the timer restarts and every pollable channel becomes due (R115). -/
def Ev.pollPeriodEnds (e : Ev) : Ev :=
  let p := e.s.settings.timers.pollPeriod
  let s := e.s
  e.modLink fun l =>
    { l with
      pollTimer := .running p
      pollDue :=
        ⟨l.pollDue.u1 || (s.channel .u1).state.pollable, l.pollDue.u2 || (s.channel .u2).state.pollable,
          l.pollDue.u3 || (s.channel .u3).state.pollable, l.pollDue.u4 || (s.channel .u4).state.pollable⟩ }

/-- POLL_PERIOD_EXPIRY; the timer is stopped until a geometry is in force. -/
def execPollPeriodExpiry (s : State) : Host.Outcome State Fault Refusal :=
  .next (if s.link.pollTimer.isRunning then s.event Ev.pollPeriodEnds else s)

/-- REPLY_TIMEOUT (R110). -/
def execReplyTimeout (s : State) : Host.Outcome State Fault Refusal := .next (s.event Ev.replyTimedOut)

/-- QUIET_INTERVAL_END (R110). -/
def execQuietIntervalEnd (s : State) : Host.Outcome State Fault Refusal :=
  .next (s.event fun e => e.modLink fun l => { l with quiet := .stopped })

/-- A retry delay ends: the command joins the link queue at the tail (R84, R113). -/
def Ev.retryFallsDue (e : Ev) (u : Inv) : Ev :=
  match (e.s.channel u).retry with
  | some r =>
    (e.modChannel u fun c => { c with retry := none }).enqueue
      { owner := u, command := r.command, purpose := .control }
  | none => e

/-- RETRY_DELAY_EXPIRY. -/
def execRetryDelayExpiry (channel : Inv) (s : State) : Host.Outcome State Fault Refusal :=
  .next (s.event fun e => e.retryFallsDue channel)

/-- The transaction in flight is a SET_OUTPUT of a channel that would reach the reject limit by one more REJECT(BUSY)
(R84). -/
def State.nextBusyIsLimit (s : State) (u : Inv) : Bool :=
  let c := s.channel u
  s.link.inFlight.any fun t =>
    t.entry.owner == u && t.entry.command.isSetOutput && !t.discard &&
      (c.state == .starting || c.state == .energized) && !c.release &&
      decide (s.settings.timers.rejectLimit ≤ min 8 (c.rejects + 1))

/-- A transaction of a channel in flight ends with an outcome. -/
def Ev.transactionEnds (e : Ev) (o : LinkOutcome) : Ev :=
  match e.s.link.inFlight with
  | some t => e.endTransaction t o
  | none => e

/-- REJECT_LIMIT_REACHED is the REJECT(BUSY) with this outcome (log entry 4). -/
def execRejectLimitReached (channel : Inv) (s : State) : Host.Outcome State Fault Refusal :=
  .next (if s.nextBusyIsLimit channel then s.event fun e => e.transactionEnds (.reject .busy) else s)

/-- The transaction in flight is one of a channel whose timeout would make it lost (R90, R100). -/
def State.nextTimeoutLoses (s : State) (u : Inv) : Bool :=
  let c := s.channel u
  s.link.inFlight.any fun t =>
    t.entry.owner == u && !t.discard &&
      (decide (s.settings.timers.lostThreshold ≤ min 8 (c.timeouts + 1)) ||
        (t.entry.purpose == .clear && c.clearing && c.state == .faulted .noStop))

/-- CHANNEL_LOST is the timeout with this outcome (log entry 4). -/
def execChannelLost (channel : Inv) (s : State) : Host.Outcome State Fault Refusal :=
  .next (if s.nextTimeoutLoses channel then s.event fun e => e.transactionEnds .timeout else s)

/-- The stop was not confirmed (R88): FAULTED(NO_STOP) with the drive left closed, any pending cause but WELDED dropped,
and FAULT_STOP requested with cause NO_STOP. -/
def Ev.stopUnconfirmed (e : Ev) (u : Inv) : Ev :=
  let e1 := e.modChannel u fun c => { c with pendingCause := none, lateCause := none, stopConfirm := .stopped }
  (e1.enterState u (.faulted .noStop)).requestFaultStop .noStop

/-- STOP_CONFIRM_EXPIRY; the timer runs in STOPPING alone. -/
def execStopConfirmExpiry (channel : Inv) (s : State) : Host.Outcome State Fault Refusal :=
  .next
    (if (s.channel channel).stopConfirm.isRunning && (s.channel channel).state == .stopping then
      s.event fun e => e.stopUnconfirmed channel
    else s)

/-- The hold-back of a discovery read ends (R118, R119). -/
def Ev.holdbackEnds (e : Ev) (u : Inv) : Ev :=
  if (e.s.link.holdback.get u).isRunning then
    (e.modLink fun l => { l with holdback := l.holdback.set u .stopped }).queueWantedDiscovery u
  else e

/-- DISCOVERY_HOLDBACK_EXPIRY. -/
def execDiscoveryHoldbackExpiry (channel : Inv) (s : State) : Host.Outcome State Fault Refusal :=
  .next (s.event fun e => e.holdbackEnds channel)

/-! ## The next transaction (R81, R107, R114 to R116, R118) -/

/-- Characters reach the receiver: discarded while the driver is on (R107), and a frame as bytes otherwise. -/
def Ev.lineHears (e : Ev) (chars : List Byte) : Ev :=
  if chars.isEmpty || e.s.link.driver then e else e.bytesReceived chars

/-- One command frame is sent, from its first character to its last (R107; log entry 43). -/
def Ev.sendFrame (e : Ev) (x : LinkEntry) (received : List Byte) : Ev :=
  ((e.transmit x).lineHears received).releaseLine

/-- The head of the queue is sent. A SET_OUTPUT that may not be sent is withdrawn (R81; log entry 32). -/
def Ev.sendHead (e : Ev) (x : LinkEntry) (received : List Byte) : Ev :=
  if x.command.isSetOutput && !e.s.setOutputAllowed then (e.withdrawSetOutput x.owner).lineHears received
  else ((e.modLink fun l => { l with queue := l.queue.tail }).sendFrame x received).noteSent x

/-- A poll is sent: its due mark is cleared and the rotation pointer updated (R115, R116). -/
def Ev.sendPoll (e : Ev) (u : Inv) (received : List Byte) : Ev :=
  (e.sendFrame { owner := u, command := .readState, purpose := .poll } received).modLink fun l =>
    { l with pollDue := l.pollDue.set u false, pointer := Inv.num u }

/-- The link controller chooses the next transaction (R114). No frame is sent while no geometry is in force (R107). -/
def Ev.sendNext (e : Ev) (received : List Byte) : Ev :=
  if e.s.linkFree && e.s.track.geometry.isSome then
    match e.s.link.queue with
    | x :: _ => e.sendHead x received
    | [] =>
      match e.s.nextPoll with
      | some u => e.sendPoll u received
      | none => e.lineHears received
  else e.lineHears received

/-- SEND_NEXT_TRANSACTION. -/
def execSendNextTransaction (s : State) (received : List Byte := []) : Host.Outcome State Fault Refusal :=
  .next (s.event fun e => e.sendNext received)

/-! ## Replies (R109, R110) -/

/-- ACCEPT from a unit. -/
def execAccept (unit : Nat) (s : State) : Host.Outcome State Fault Refusal :=
  .next (s.event fun e => e.frameReceived unit (some .accept))

/-- REJECT from a unit. -/
def execReject (unit : Nat) (reason : RejectReason) (s : State) : Host.Outcome State Fault Refusal :=
  .next (s.event fun e => e.frameReceived unit (some (.reject reason)))

/-- STATE from a unit; one whose fault code is not present exactly with output FAULT is a bad reply (R109). -/
def execState (unit : Nat) (report : StateReport) (s : State) : Host.Outcome State Fault Refusal :=
  .next (s.event fun e => e.frameReceived unit (if reportConsistent report then some (.state report) else none))

/-- BAD_REPLY: a frame as bytes, judged by R109. -/
def execBadReply (frame : List Byte) (s : State) : Host.Outcome State Fault Refusal :=
  .next (s.event fun e => e.bytesReceived frame)

/-- STRAY_REPLY: a frame as bytes, judged by R109 and R110. -/
def execStrayReply (frame : List Byte) (s : State) : Host.Outcome State Fault Refusal :=
  .next (s.event fun e => e.bytesReceived frame)

/-- UNSOLICITED_REPLY: a frame as bytes, judged by R110. -/
def execUnsolicitedReply (frame : List Byte) (s : State) : Host.Outcome State Fault Refusal :=
  .next (s.event fun e => e.bytesReceived frame)

end Sys2Proof.Machine
end

