-- ==== Sys2Proof/Machine/TrackRequests.lean ====
section
/-! DEFINITION. The supervisor's track and recipe requests: TRACK_CLEAR, DECLARE_SLOTS, MARK_REJECT, CLEAR_SUSPECT, WRITE_RECIPE, DELETE_RECIPE, SET_LEARNING (R3 to R6, R20, R21, R35 to R37, R46). -/

namespace Sys2Proof.Machine

/-- STANDBY or FAULT_STOP. -/
def Mode.declares : Mode → Bool
  | .standby | .faultStop => true
  | _ => false

/-- A configuration store is running. -/
def State.storing (s : State) : Bool := s.loader.store != .idle

/-! ## TRACK_CLEAR (R3) -/

def takeTrackClear (s : State) : Taken :=
  if !s.line.mode.declares then Taken.refuse .wrongMode
  else if s.push.record.isSome then Taken.refuse .busy
  else
    Taken.accept
      ((((Ev.of s).modTrack fun t =>
        { t with slots := t.slots.map fun _ => Slot.gap, verified := true }).reportAll).trackSignal)

def execTrackClear (port : Port) (s : State) : Host.Outcome State Fault Refusal :=
  .next (s.request port 0x40 takeTrackClear)

/-! ## DECLARE_SLOTS (R4 to R6) -/

def DeclEntry.id? : DeclEntry → Option Nat
  | .gap => none
  | .billet id _ => some id

def DeclEntry.grade? : DeclEntry → Option Nat
  | .gap => none
  | .billet _ grade => some grade

/-- Ids and grades lie in their ranges (R4). -/
def entriesOk (es : List DeclEntry) : Bool :=
  es.all fun e =>
    match e with
    | .gap => true
    | .billet id grade => idOk id && gradeOk grade

/-- The slots that a request at `first` with `count` entries does not declare. -/
def outsideSlots (slots : List Slot) (first count : Nat) : List Slot :=
  slots.take (first - 1) ++ slots.drop (first - 1 + count)

/-- A billet id meets another one (the DUPLICATE row of R4). -/
def State.declaredTwice (s : State) (first : Nat) (es : List DeclEntry) : Bool :=
  let ids := es.filterMap DeclEntry.id?
  !noDuplicates ids || ids.any (fun id => s.track.cradle.any fun c => c.id == id) ||
    ids.any fun id => (outsideSlots s.track.slots first es.length).any (Slot.hasId id)

/-- The content an entry gives its slot (R5). -/
def State.declaredSlot (s : State) : DeclEntry → Slot
  | .gap => .gap
  | .billet id grade => .billet (declaredBillet id grade ((s.findGrade grade).getD 0))

/-- The slots with entries put in from position `first` on. -/
def State.declaredSlots (s : State) (first : Nat) (es : List DeclEntry) : List Slot :=
  s.track.slots.take (first - 1) ++ es.map s.declaredSlot ++ s.track.slots.drop (first - 1 + es.length)

/-- A declaration that leaves no UNDECLARED slot verifies the track and charges the declared billets (R6). -/
def State.declaredTrack (s : State) (slots : List Slot) : TrackMgr :=
  if slots.any Slot.isUndeclared then { s.track with slots := slots }
  else
    let r := chargeExitFirst s s.track.chargeCounter slots.reverse
    { s.track with slots := r.1.reverse, verified := true, chargeCounter := r.2 }

/-- DECLARE_SLOTS (R4). DESIGN CHOICE (log entry 53): while no geometry is in force only the part of the first check that reads N
passes (R189); the entry count, the billet ids and the grades are still tested there. -/
def takeDeclareSlots (first : Nat) (entries : List DeclEntry) (s : State) : Taken :=
  let grades := entries.filterMap DeclEntry.grade?
  if !(s.positionOk first && inRange 1 7 entries.length && s.positionOk (first + entries.length - 1) &&
      entriesOk entries) then Taken.refuse .outOfRange
  else if !s.line.mode.declares then Taken.refuse .wrongMode
  else if s.track.verified then Taken.refuse .wrongMode
  else if s.push.record.isSome then Taken.refuse .busy
  else if s.declaredTwice first entries then Taken.refuse .duplicate
  else if grades.any (fun g => (s.findGrade g).isNone) then Taken.refuse .notFound
  else if grades.any (fun g => (s.findGrade g).any fun i => (s.recipe i).state == .invalid) then
    Taken.refuse .notUsable
  else
    Taken.accept
      ((((Ev.of s).modTrack fun _ => s.declaredTrack (s.declaredSlots first entries)).reportAll).trackSignal)

def execDeclareSlots (port : Port) (first : Nat) (entries : List DeclEntry) (s : State) :
    Host.Outcome State Fault Refusal :=
  .next (s.request port 0x41 (takeDeclareSlots first entries))

/-! ## MARK_REJECT and CLEAR_SUSPECT (R20, R21) -/

/-- The refusals the two requests share: the billet named by position and id, or the refusal. -/
def State.namedBillet (s : State) (position id : Nat) : Except Reason Billet :=
  if s.line.mode.noLine then .error .wrongMode
  else if !s.positionOk position then .error .outOfRange
  else
    match at1 s.track.slots position with
    | some (.billet b) => if b.id = id then .ok b else .error .notFound
    | _ => .error .notFound

/-- The billet at a position is changed; its coil is reported afresh and a change of mark is signalled (R28, R29). -/
def Ev.remark (e : Ev) (position : Nat) (b : Billet) : Ev :=
  e.putSlots (mod1 e.s.track.slots position fun _ => .billet b) [e.s.coilOf position]

def takeMarkReject (position id : Nat) (s : State) : Taken :=
  match s.namedBillet position id with
  | .error r => Taken.refuse r
  | .ok b => Taken.accept ((Ev.of s).remark position { b with reject := true })

def execMarkReject (port : Port) (position id : Nat) (s : State) : Host.Outcome State Fault Refusal :=
  .next (s.request port 0x42 (takeMarkReject position id))

def takeClearSuspect (position id : Nat) (s : State) : Taken :=
  match s.namedBillet position id with
  | .error r => Taken.refuse r
  | .ok b => Taken.accept ((Ev.of s).remark position { b with suspect := none })

def execClearSuspect (port : Port) (position id : Nat) (s : State) : Host.Outcome State Fault Refusal :=
  .next (s.request port 0x43 (takeClearSuspect position id))

/-! ## Recipes (R35 to R37, R46) -/

/-- The fraction check against the geometry in force, which passes while none is (R33, R189). -/
def State.fractionsFit (s : State) (r : RecipeData) : Bool :=
  (s.track.geometry.map fun g => fractionCheck g.n r.fractions).getD true

/-- Another defined entry holds a grade (R35). -/
def State.gradeHeldElsewhere (s : State) (index grade : Nat) : Bool :=
  (s.recipes.entries.set index Recipe.empty).any fun r => r.state != .empty && r.data.grade == grade

/-- The entry an accepted WRITE_RECIPE leaves (R36). An EMPTY entry holds correction 0, so the keep flag gives it 0. -/
def Recipe.written (old : Recipe) (data : RecipeData) (keep : Bool) : Recipe :=
  { state := .modified
    data := { data with correction := if keep then (if old.state = .empty then 0 else old.data.correction)
                                      else data.correction } }

/-- WRITE_RECIPE (R35). DESIGN CHOICE (log entry 51): a write that would put a grade at another index while its old entry still
holds it is refused DUPLICATE, as R35 says, also when a cradle billet loaded in between keeps the old entry in use; the first row
of R38's table says that such a write is accepted. -/
def takeWriteRecipe (index : Nat) (data : RecipeData) (keep : Bool) (s : State) : Taken :=
  if !(decide (index ≤ 47) && recipeOk s.recipes.learning.limit data) then Taken.refuse .outOfRange
  else if !s.fractionsFit data then Taken.refuse .outOfRange
  else if s.line.mode.noLine then Taken.refuse .wrongMode
  else if s.storing then Taken.refuse .busy
  else if 0 < s.useCount index then Taken.refuse .inUse
  else if s.gradeHeldElsewhere index data.grade then Taken.refuse .duplicate
  else Taken.accept ((Ev.of s).modRecipes fun t => setEntry t index fun r => r.written data keep)

def execWriteRecipe (port : Port) (index : Nat) (data : RecipeData) (keep : Bool) (s : State) :
    Host.Outcome State Fault Refusal :=
  .next (s.request port 0x50 (takeWriteRecipe index data keep))

/-- DELETE_RECIPE (R37). -/
def takeDeleteRecipe (index : Nat) (s : State) : Taken :=
  if 47 < index then Taken.refuse .outOfRange
  else if s.line.mode.noLine then Taken.refuse .wrongMode
  else if s.storing then Taken.refuse .busy
  else if (s.recipe index).state = .empty then Taken.refuse .notFound
  else if 0 < s.useCount index then Taken.refuse .inUse
  else Taken.accept ((Ev.of s).modRecipes fun t => setEntry t index fun _ => Recipe.empty)

def execDeleteRecipe (port : Port) (index : Nat) (s : State) : Host.Outcome State Fault Refusal :=
  .next (s.request port 0x51 (takeDeleteRecipe index))

/-- SET_LEARNING (R46). A raised limit clamps nothing, since every correction lies within the old one. -/
def takeSetLearning (settings : LearningSettings) (s : State) : Taken :=
  if !learningOk settings then Taken.refuse .outOfRange
  else if s.line.mode = .loading then Taken.refuse .wrongMode
  else if s.storing then Taken.refuse .busy
  else
    Taken.accept ((Ev.of s).modRecipes fun t =>
      { entries := if settings.limit < t.learning.limit then t.entries.map (Recipe.clampTo settings.limit) else t.entries
        learning := settings })

def execSetLearning (port : Port) (settings : LearningSettings) (s : State) : Host.Outcome State Fault Refusal :=
  .next (s.request port 0x53 (takeSetLearning settings))

end Sys2Proof.Machine
end

