-- ==== Sys2Proof/Machine/ConfigRequests.lean ====
section
/-! DEFINITION. The configuration requests and what a geometry, a reach map and settings do as they come into force: SET_LINE, SET_REACH, SET_TIMERS, SET_URGENCY_MAP, SET_LINE_LIMIT; DISABLE_COIL, ENABLE_COIL, CLEAR_CHANNEL, RELEASE_LOCKOUT (R2, R39, R51 to R54, R69, R99 to R104, R118, R121, R201 to R203). -/

namespace Sys2Proof.Machine

/-! ## A geometry comes into force (R2, R24, R39, R51, R104, R115, R118, R121) -/

/-- The track under a new geometry (R2): all GAP and verified if it was verified under a geometry, all UNDECLARED
otherwise; the counters of the coils that remain are kept (R24). -/
def TrackMgr.underGeometry (t : TrackMgr) (g : Geometry) : TrackMgr :=
  { t with
    geometry := some g
    slots := List.replicate g.positions (if t.verified then .gap else .undeclared)
    unattributed := t.unattributed.take g.n ++ List.replicate (g.n - t.unattributed.length) 0 }

def Coil.fresh : Coil := { state := .unpowered, disable := false, demand := 0, lead := none }

/-- The coils under a new geometry: kept coils keep their state and disable setting, no demand is held, the queues are
empty (R51, R52, R53, R55). -/
def Allocator.underGeometry (a : Allocator) (n : Nat) : Allocator :=
  { a with
    coils := (a.coils.take n).map (fun c => { c with demand := 0, lead := none }) ++
      List.replicate (n - a.coils.length) Coil.fresh
    queues := ⟨[], [], [], []⟩ }

/-- A channel beyond m becomes ABSENT (R104, R121): its commands, poll, discovery and hold-back are withdrawn, it leaves
the discovery rounds, and the outcome of its transaction in flight is discarded. -/
def Ev.removeChannel (e : Ev) (u : Inv) : Ev :=
  let e1 := (e.withdrawAll u).modLink fun l =>
    { l with
      pollDue := l.pollDue.set u false
      holdback := l.holdback.set u .stopped
      inFlight := l.inFlight.map fun t => if t.entry.owner = u then { t with discard := true } else t }
  (e1.modChannel u fun _ => Channel.reset).unitAnswered u

/-- A channel leaves ABSENT: UNREACHED, with its start-up stop queued if its mark is set (R76, R118). -/
def Ev.addChannel (e : Ev) (u : Inv) : Ev :=
  let e1 := e.modChannel u fun c => { c with state := .unreached }
  if e1.s.link.startMark.get u then
    e1.enqueue { owner := u, command := .stopOutput, purpose := .startStop }
  else e1

/-- The channels under m inverters. -/
def Ev.fitChannels (e : Ev) (m : Nat) : Ev :=
  e.forEach inverters fun u e =>
    if Inv.num u ≤ m then (if (e.s.channel u).state = .absent then e.addChannel u else e)
    else if (e.s.channel u).state = .absent then e
    else e.removeChannel u

/-- The poll-period timer starts when a geometry first comes into force (R115). -/
def Ev.startPolling (e : Ev) : Ev :=
  let p := e.s.settings.timers.pollPeriod
  e.modLink fun l => if l.pollTimer.isRunning then l else { l with pollTimer := .running p }

/-- A geometry comes into force. -/
def Ev.applyGeometry (e : Ev) (g : Geometry) : Ev :=
  let e1 := (e.modTrack fun t => t.underGeometry g).modRecipes fun t =>
    { t with entries := t.entries.map (Recipe.underGeometry g.n) }
  let e2 := e1.modAlloc fun a => a.underGeometry g.n
  let e3 := e2.modMatrix fun xs => xs.filter fun x => decide (Inv.num x.inverter ≤ g.m) && decide (x.coil ≤ g.n)
  (((e3.fitChannels g.m).startPolling).recountSupply).dueEval

/-! ## SET_LINE (R201) -/

def Slot.unoccupied : Slot → Bool
  | .billet _ => false
  | _ => true

/-- The last check of SET_LINE. -/
def State.geometryDropsFailure (s : State) (g : Geometry) : Bool :=
  (s.matrix.any fun x =>
    x.state == .failClosed && (decide (g.m < Inv.num x.inverter) || decide (g.n < x.coil))) ||
    inverters.any fun u => decide (g.m < Inv.num u) && (s.channel u).state.isLocked

/-- STANDBY or UNCONFIGURED. -/
def Mode.configures : Mode → Bool
  | .standby | .unconfigured _ => true
  | _ => false

/-- In UNCONFIGURED the line then enters STANDBY (R168). -/
def Ev.leaveUnconfigured (e : Ev) : Ev :=
  match e.s.line.mode with
  | .unconfigured _ => e.changeMode .standby
  | _ => e

def takeSetLine (g : Geometry) (s : State) : Taken :=
  if !geometryOk g then Taken.refuse .outOfRange
  else if !s.line.mode.configures then Taken.refuse .wrongMode
  else if s.storing || s.push.record.isSome then Taken.refuse .busy
  else if !s.track.slots.all Slot.unoccupied || s.track.cradle.isSome then Taken.refuse .wrongMode
  else if s.geometryDropsFailure g then Taken.refuse .inUse
  else Taken.accept (((Ev.of s).applyGeometry g).leaveUnconfigured)

def execSetLine (port : Port) (geometry : Geometry) (s : State) : Host.Outcome State Fault Refusal :=
  .next (s.request port 0x60 (takeSetLine geometry))

/-! ## SET_REACH (R202) -/

/-- A list of names holds Ui/Cj. -/
def namesHold (map : List CrosspointName) (u : Inv) (j : Nat) : Bool :=
  map.any fun x => x.inverter == Inv.num u && x.coil == j

/-- The crosspoints of a reach map in ascending inverter and then coil number, which is the order READ_CHANNELS and a
captured REACH record give them in (R105; the record's order is log entry 41); kept ones keep their records (R104). -/
def State.matrixOf (s : State) (map : List CrosspointName) : List Crosspoint :=
  inverters.flatMap fun u =>
    ((List.range s.coilCount).map (· + 1)).filterMap fun j =>
      if namesHold map u j then some ((s.crosspoint u j).getD (newCrosspoint u j)) else none

/-- A reach map comes into force: each crosspoint it adds takes its state from its feedback (R92). -/
def Ev.applyReach (e : Ev) (map : List CrosspointName) : Ev :=
  let before := e.s
  let e1 := e.modMatrix fun _ => before.matrixOf map
  e1.forEach e1.s.matrix fun x e =>
    if (before.crosspoint x.inverter x.coil).isSome then e else e.judgeNew x.inverter x.coil

/-- The list of SET_REACH against the geometry in force; the part that reads n and m passes while none is (R189). DESIGN CHOICE
(log entry 53): the count and the repeats are still tested then (R202). -/
def State.reachListOk (s : State) (map : List CrosspointName) : Bool :=
  match s.track.geometry with
  | some g => reachOk g.n g.m map
  | none => decide (map.length ≤ 48) && noDuplicates map

def takeSetReach (map : List CrosspointName) (s : State) : Taken :=
  if !s.reachListOk map then Taken.refuse .outOfRange
  else if !s.line.mode.configures then Taken.refuse .wrongMode
  else if s.track.geometry = none then Taken.refuse .wrongMode
  else if s.storing then Taken.refuse .busy
  else if s.matrix.any (fun x => x.state == .failClosed && !namesHold map x.inverter x.coil) then Taken.refuse .inUse
  else Taken.accept ((Ev.of s).applyReach map)

def execSetReach (port : Port) (map : List CrosspointName) (s : State) : Host.Outcome State Fault Refusal :=
  .next (s.request port 0x61 (takeSetReach map))

/-! ## SET_TIMERS, SET_URGENCY_MAP, SET_LINE_LIMIT (R203) -/

/-- A press silence setting of 0 stops the timer, and a change from 0 to a value starts it (R164). -/
def Timer.underSilence (t : Timer) (old new : Nat) : Timer :=
  if new = 0 then .stopped else if old = 0 then .running new else t

def takeSetTimers (settings : TimerSettings) (s : State) : Taken :=
  if !timersOk settings then Taken.refuse .outOfRange
  else if s.line.mode = .loading then Taken.refuse .wrongMode
  else if s.storing then Taken.refuse .busy
  else
    Taken.accept
      (((Ev.of s).modOrders fun o =>
        { o with silence := o.silence.underSilence s.settings.timers.pressSilence settings.pressSilence }).modSettings
          fun x => { x with timers := settings })

def execSetTimers (port : Port) (settings : TimerSettings) (s : State) : Host.Outcome State Fault Refusal :=
  .next (s.request port 0x62 (takeSetTimers settings))

def takeSetUrgencyMap (map : UrgencyMap) (s : State) : Taken :=
  if !urgencyOk map then Taken.refuse .outOfRange
  else if s.line.mode = .loading then Taken.refuse .wrongMode
  else if s.storing then Taken.refuse .busy
  else Taken.accept (((Ev.of s).modSettings fun x => { x with urgency := map }).reclassify)

def execSetUrgencyMap (port : Port) (map : UrgencyMap) (s : State) : Host.Outcome State Fault Refusal :=
  .next (s.request port 0x63 (takeSetUrgencyMap map))

/-- The short form of SET_LINE_LIMIT (R69). -/
def takeSetLineLimit (limit : Nat) (s : State) : Taken :=
  if !lineLimitOk limit then Taken.refuse .outOfRange
  else if s.line.mode = .loading then Taken.refuse .wrongMode
  else if s.storing then Taken.refuse .busy
  else Taken.accept ((Ev.of s).takeLimit limit)

def execSetLineLimit (port : Port) (limit : Nat) (s : State) : Host.Outcome State Fault Refusal :=
  .next (s.request port 0x64 (takeSetLineLimit limit))

/-- The long form of SET_LINE_LIMIT (R53, R69, R161, R203). -/
def takeSetLineLimitLong (limit : Nat) (settings : LimitSettings) (s : State) : Taken :=
  if !(lineLimitOk limit && limitsOk settings) then Taken.refuse .outOfRange
  else if s.line.mode = .loading then Taken.refuse .wrongMode
  else if s.storing then Taken.refuse .busy
  else
    Taken.accept
      (((((Ev.of s).modSettings fun x => { x with limits := settings }).takeLimit limit).joinAll).recountSupply)

def execSetLineLimitLong (port : Port) (limit : Nat) (settings : LimitSettings) (s : State) :
    Host.Outcome State Fault Refusal :=
  .next (s.request port 0x64 (takeSetLineLimitLong limit settings))

/-! ## DISABLE_COIL and ENABLE_COIL (R52) -/

/-- The disable setting of a coil is set. -/
def Ev.disableCoil (e : Ev) (j : Nat) : Ev :=
  match e.s.coil j with
  | none => e
  | some c =>
    if c.disable then e
    else
      let e1 := e.modCoil j fun c => { c with disable := true }
      match c.state with
      | .unpowered => e1.setCoilState j .disabled
      | .queued _ => (e1.leaveQueue j).setCoilState j .disabled
      | .assigned u => e1.release u .disable
      | _ => e1

/-- The disable setting of a coil is cleared. -/
def Ev.enableCoil (e : Ev) (j : Nat) : Ev :=
  let e1 := e.modCoil j fun c => { c with disable := false }
  match (e.s.coil j).map Coil.state with
  | some .disabled => e1.enterUnpowered j
  | _ => e1

def takeDisableCoil (coil : Nat) (s : State) : Taken :=
  if !s.coilNumberOk coil then Taken.refuse .outOfRange
  else if s.line.mode.noLine then Taken.refuse .wrongMode
  else Taken.accept ((Ev.of s).disableCoil coil)

def execDisableCoil (port : Port) (coil : Nat) (s : State) : Host.Outcome State Fault Refusal :=
  .next (s.request port 0x70 (takeDisableCoil coil))

def takeEnableCoil (coil : Nat) (s : State) : Taken :=
  if !s.coilNumberOk coil then Taken.refuse .outOfRange
  else if s.line.mode.noLine then Taken.refuse .wrongMode
  else Taken.accept ((Ev.of s).enableCoil coil)

def execEnableCoil (port : Port) (coil : Nat) (s : State) : Host.Outcome State Fault Refusal :=
  .next (s.request port 0x71 (takeEnableCoil coil))

/-! ## CLEAR_CHANNEL (R100) -/

/-- The state is FAULTED or UNREACHED. -/
def ChannelState.clearable : ChannelState → Bool
  | .faulted _ | .unreached => true
  | _ => false

/-- A clear sequence starts (R100, R120): a DISCOVERY read not yet in flight is served by it, and CLEAR_FAULT is queued. A
STOP_OUTPUT that waits for its retry delay goes on waiting (R84; log entry 20). -/
def Ev.startClear (e : Ev) (u : Inv) : Ev :=
  let e1 := e.modChannel u fun c => { c with clearing := true }
  let e2 := e1.modLink fun l =>
    match l.discovery.get u with
    | .queued | .wanted => { l with discovery := l.discovery.set u .byClear }
    | _ => l
  e2.enqueue { owner := u, command := .clearFault, purpose := .clear }

/-- CLEAR_CHANNEL (R100). DESIGN CHOICE (log entry 53): while no geometry is in force only the part of the channel's range check
that reads m passes (R189); a channel outside 1..4 is still refused. -/
def takeClearChannel (channel : Nat) (s : State) : Taken :=
  match invOfNat channel with
  | none => Taken.refuse .outOfRange
  | some u =>
    if !s.inverterNumberOk channel then Taken.refuse .outOfRange
    else if !s.line.mode.declares then Taken.refuse .wrongMode
    else if !(s.channel u).state.clearable then Taken.refuse .notFound
    else if (s.channel u).clearing then Taken.refuse .busy
    else Taken.accept ((Ev.of s).startClear u)

def execClearChannel (port : Port) (channel : Nat) (s : State) : Host.Outcome State Fault Refusal :=
  .next (s.request port 0x72 (takeClearChannel channel))

/-! ## RELEASE_LOCKOUT (R99) -/

def takeReleaseLockout (name : CrosspointName) (s : State) : Taken :=
  if !(s.inverterNumberOk name.inverter && s.coilNumberOk name.coil) then Taken.refuse .outOfRange
  else if s.line.mode.noLine then Taken.refuse .wrongMode
  else
    match invOfNat name.inverter with
    | none => Taken.refuse .outOfRange
    | some u =>
      match s.crosspoint u name.coil with
      | none => Taken.refuse .notFound
      | some x =>
        if !x.state.failed then Taken.refuse .notFound
        else if s.feedbackClosed u name.coil then Taken.refuse .notUsable
        else Taken.accept ((Ev.of s).releaseCrosspoint u name.coil)

def execReleaseLockout (port : Port) (name : CrosspointName) (s : State) : Host.Outcome State Fault Refusal :=
  .next (s.request port 0x73 (takeReleaseLockout name))

end Sys2Proof.Machine
end

