-- ==== Sys2Proof/Machine/Loader.lean ====
section
/-! DEFINITION. The configuration loader: reading and checking the image, applying it, capturing and writing it; STORE_CONFIG, HARDWARE_RESET, IMAGE_APPLIED, LOAD_FAILED, STORE_COMPLETE_OK, STORE_NO_ACK (R180, R198 to R205, R212). -/

namespace Sys2Proof.Machine

/-! ## Staging (R198, R199) -/

/-- The records staged so far: the kind read last, and the values of each record. -/
structure Staging where
  lastKind : Nat
  geometry : Option Geometry
  reach : Option (List CrosspointName)
  timers : TimerSettings
  urgency : UrgencyMap
  limit : Nat
  limits : LimitSettings
  learning : LearningSettings
  recipes : List (Nat × RecipeData)
  deriving DecidableEq, Repr

/-- A missing optional record leaves the defaults of its settings, and a line limit of 0 (R69, R200). -/
def Staging.start : Staging :=
  { lastKind := 0, geometry := none, reach := none, timers := TimerSettings.default, urgency := UrgencyMap.default
    limit := 0, limits := LimitSettings.default, learning := LearningSettings.default, recipes := [] }

/-- A record of kind LINE, REACH, TIMERS, URGENCY or LIMITS is staged; none when its length or a value fails its check
(R199). -/
def Staging.stageSettings (g : Staging) (kind : Nat) (p : List Nat) : Option Staging :=
  match kind with
  | 0x10 => (lineOf p).bind fun x => if geometryOk x then some { g with geometry := some x } else none
  | 0x11 =>
    match g.geometry, reachOf p with
    | some x, some map => if reachOk x.n x.m map then some { g with reach := some map } else none
    | _, _ => none
  | 0x20 => (timersOf p).bind fun t => if timersOk t then some { g with timers := t } else none
  | 0x21 => (urgencyOf p).bind fun u => if urgencyOk u then some { g with urgency := u } else none
  | 0x22 =>
    match limitsOf (p.take 9), learningOf (p.drop 9) with
    | some (l, ls), some le =>
      if lineLimitOk l && limitsOk ls && learningOk le then
        some { g with limit := l, limits := ls, learning := le }
      else none
    | _, _ => none
  | _ => none

/-- A RECIPE record is staged (R40): index 0..47 and greater than the one before, fields in range against the image's own
correction limit, the grade new to the image. -/
def Staging.stageRecipe (g : Staging) (p : List Nat) : Option Staging :=
  (recipeOfBytes p).bind fun ir =>
    let risen := match g.recipes.getLast? with
      | some x => decide (x.1 < ir.1)
      | none => true
    if decide (ir.1 ≤ 47) && risen && recipeOk g.learning.limit ir.2 &&
        g.recipes.all (fun x => x.2.grade != ir.2.grade) then
      some { g with recipes := g.recipes ++ [ir] }
    else none

/-- The kinds ascend, RECIPE alone repeating (R198, R199). -/
def kindFollows (last kind : Nat) : Bool := decide (last < kind) || (last == 0x30 && kind == 0x30)

/-- One record other than END is staged. -/
def Staging.stage (g : Staging) (kind : Nat) (p : List Nat) : Option Staging :=
  if kindFollows g.lastKind kind then
    ((if kind = 0x30 then g.stageRecipe p else g.stageSettings kind p)).map fun x => { x with lastKind := kind }
  else none

/-- The bytes from an address on. -/
def bytesFrom (m : List Host.Cell) (a count : Nat) : List Nat :=
  (List.range count).map fun k => (readByte m (a + k)).toNat

/-- Read records from an address on; `sum` is the sum of every byte before it. `fuel` bounds the number of records, each
of which has at least two bytes. END is the last record, with the sum of every byte before its kind byte, and needs a LINE
and a REACH record before it. -/
def readImage (m : List Host.Cell) : Nat → Nat → Nat → Staging → Option Staging
  | 0, _, _, _ => none
  | fuel + 1, a, sum, g =>
    let kind := (readByte m a).toNat
    let len := (readByte m (a + 1)).toNat
    let p := bytesFrom m (a + 2) len
    if 8192 ≤ a then none
    else if kind = 0xFF then
      if len = 2 ∧ g.geometry.isSome ∧ g.reach.isSome ∧ ofBigEndian p = sum % 65536 then some g else none
    else
      match g.stage kind p with
      | some g1 => readImage m fuel (a + 2 + len) (sum + kind + len + p.sum) g1
      | none => none

/-- The staging the load ends with, or none when it meets a failure finding on the image's own bytes (R199). -/
def State.loadOutcome (s : State) : Option Staging := readImage s.loader.eeprom 4097 0 0 Staging.start

/-! ## Applying the staging (R40, R92, R200) -/

/-- The entry of an index from the RECIPE records (R40). -/
def Staging.entry (g : Staging) (n i : Nat) : Recipe :=
  match g.recipes.find? fun x => x.1 == i with
  | some x => { state := if fractionCheck n x.2.fractions then .stored else .invalid, data := x.2 }
  | none => Recipe.empty

def Staging.recipeTable (g : Staging) (n : Nat) : RecipeTable :=
  { entries := (List.range 48).map (g.entry n), learning := g.learning }

/-- The staging is applied in one event (R200): settings, geometry, reach map, recipes, channels with their start-up
stops, the discovery round, and the mode. -/
def Ev.applyImage (e : Ev) (g : Staging) (x : Geometry) (map : List CrosspointName) : Ev :=
  let e1 := e.modSettings fun _ => { timers := g.timers, urgency := g.urgency, limits := g.limits }
  let e2 := (e1.modLoader fun l => { l with load := .applied }).modAlloc fun a => { a with effective := g.limit }
  let e3 := (e2.applyGeometry x).modRecipes fun _ => g.recipeTable x.n
  let e4 := e3.applyReach map
  (e4.beginRound (inverters.filter fun u => decide (Inv.num u ≤ x.m)) false).changeMode .standby

/-- IMAGE_APPLIED (R200). With the load over, or an image that does not end the load so, nothing happens (log entry 3). -/
def execImageApplied (s : State) : Host.Outcome State Fault Refusal :=
  .next
    (match s.loader.load, s.loadOutcome with
      | .reading, some g =>
        match g.geometry, g.reach with
        | some x, some map => s.event fun e => e.applyImage g x map
        | _, _ => s
      | _, _ => s)

/-- The load fails with a cause (R168, R199). -/
def Ev.failLoad (e : Ev) (c : UnconfiguredCause) : Ev :=
  (e.modLoader fun l => { l with load := .failed }).changeMode (.unconfigured c)

/-- The address after the END record of the image that begins at an address (R198): the loader reads no byte from there on
(R199). -/
def imageEnd (m : List Host.Cell) : Nat → Nat → Nat
  | 0, a => a
  | fuel + 1, a =>
    let next := a + 2 + (readByte m (a + 1)).toNat
    if (readByte m a).toNat = 0xFF then next else imageEnd m fuel next

/-- The load reads the byte at an address: up to the end of an image that passes every check. An image with a finding of
its own fails with the same cause whether the load reaches the byte or the finding first (R199). -/
def State.loadReads (s : State) (a : Nat) : Bool :=
  match s.loadOutcome with
  | some _ => decide (a < imageEnd s.loader.eeprom 4097 0)
  | none => true

/-- The cause a load fails with, none when it has no finding (R199): no acknowledge to the first read gives ABSENT, one to
a later byte that the load reads LOAD_ERROR, and so does every finding on the image's own bytes. -/
def State.loadFinding (s : State) (noAck : Option Nat) : Option UnconfiguredCause :=
  match noAck with
  | some 0 => some .absent
  | some a => if s.loadReads a then some .loadError else none
  | none => if s.loadOutcome.isNone then some .loadError else none

/-- LOAD_FAILED (R199). With the load over, or without a finding, nothing happens (log entry 3). -/
def execLoadFailed (noAck : Option Nat) (s : State) : Host.Outcome State Fault Refusal :=
  .next
    (match s.loader.load, s.loadFinding noAck with
      | .reading, some c => s.event fun e => e.failLoad c
      | _, _ => s)

/-! ## The captured image (R204) -/

/-- One record: its kind, its length and its payload. -/
def recordBytes (kind : Nat) (p : List Byte) : List Byte := byteOf kind :: byteOf p.length :: p

/-- The records of the defined entries, in ascending index. -/
def recipeRecords (s : State) : List Byte :=
  ((List.range 48).filter fun i => (s.recipe i).state != .empty).flatMap fun i =>
    recordBytes 0x30 (recipeBytes i (s.recipe i).data)

/-- The full image, END included; the line limit is the pending limit when one is held (R204). -/
def State.capturedImage (s : State) (g : Geometry) : List Byte :=
  let body := recordBytes 0x10 (lineBytes g) ++ recordBytes 0x11 (reachBytes s.matrix) ++
    recordBytes 0x20 (timersBytes s.settings.timers) ++ recordBytes 0x21 (urgencyBytes s.settings.urgency) ++
    recordBytes 0x22 (limitsBytes (s.alloc.pendingLimit.getD s.alloc.effective) s.settings.limits ++
      learningBytes s.recipes.learning) ++ recipeRecords s
  body ++ recordBytes 0xFF (bigEndian 2 ((body.map BitVec.toNat).sum % 65536))

/-- STORE_CONFIG (R204). -/
def takeStoreConfig (s : State) : Taken :=
  if s.line.mode.noLine then Taken.refuse .wrongMode
  else if s.storing then Taken.refuse .busy
  else
    match s.track.geometry with
    | none => Taken.refuse .wrongMode
    | some g => Taken.accept ((Ev.of s).modLoader fun l => { l with store := .writing (s.capturedImage g) })

def execStoreConfig (port : Port) (s : State) : Host.Outcome State Fault Refusal :=
  .next (s.request port 0x7F takeStoreConfig)

/-! ## Writing the image (R204, R205) -/

/-- The writes of a store in order: byte 0 as 00h, every byte from byte 1 on, then byte 0 with the LINE kind. -/
def storeWrites (image : List Byte) : List (Nat × Byte) :=
  (0, 0) :: mapNumbered (fun a b => (a, b)) 1 (image.drop 1) ++ [(0, 0x10)]

/-- The EEPROM after the first `n` writes of a store. -/
def afterWrites (image : List Byte) (n : Nat) (m : List Host.Cell) : List Host.Cell :=
  ((storeWrites image).take n).foldl (fun acc w => writeByte acc w.1 w.2) m

/-- A store completes with a result: CONFIG_DONE is raised and the result kept (R194, R205). -/
def Ev.storeDone (e : Ev) (eeprom : List Host.Cell) (r : ConfigResult) : Ev :=
  (e.modLoader fun l => { l with store := .idle, eeprom := eeprom, result := r }).raise .supervisor .configDone

/-- STORE_COMPLETE_OK (R205): every MODIFIED entry becomes STORED (R41). With no store running nothing happens
(log entry 3). -/
def execStoreCompleteOk (s : State) : Host.Outcome State Fault Refusal :=
  .next
    (match s.loader.store with
      | .writing image =>
        s.event fun e =>
          (e.storeDone (afterWrites image (storeWrites image).length s.loader.eeprom) .ok).modRecipes fun t =>
            { t with entries := t.entries.map Recipe.afterStore }
      | .idle => s)

/-- STORE_NO_ACK (R205): the store ends at the write that is not acknowledged. With no store running, or with every write
acknowledged, nothing happens (log entry 3). -/
def execStoreNoAck (writes : Nat) (s : State) : Host.Outcome State Fault Refusal :=
  .next
    (match s.loader.store with
      | .writing image =>
        if writes < (storeWrites image).length then
          s.event fun e => e.storeDone (afterWrites image writes s.loader.eeprom) .noAck
        else s
      | .idle => s)

/-! ## Hardware reset (R180) -/

/-- The EEPROM's contents after a reset that interrupts a store (R205). The last write ends the store, so a store that the
reset finds in WRITING lacks it at least. -/
def State.eepromAtReset (s : State) (writes : Nat) : List Host.Cell :=
  match s.loader.store with
  | .writing image => afterWrites image (min writes ((storeWrites image).length - 1)) s.loader.eeprom
  | .idle => s.loader.eeprom

/-- A port after a hardware reset (R185). -/
def PortRec.hardwareReset (r : PortRec) : PortRec := { PortRec.reset with select := r.select.afterReset }

/-- The part after a hardware reset (R180): the hardware-reset values, with what is outside the part kept: the input levels,
chip select among them, and the EEPROM (log entries 8, 9), and the model's queue and free-value counter. -/
def State.hardwareReset (s : State) (writes : Nat) : State :=
  { State.reset with
    pending := s.pending
    lines := { State.reset.lines with lineStop := s.lines.lineStop, feedback := s.lines.feedback }
    ports := ⟨s.ports.press.hardwareReset, s.ports.feeder.hardwareReset, s.ports.supervisor.hardwareReset⟩
    loader := { State.reset.loader with eeprom := s.eepromAtReset writes }
    free := s.free }

/-- HARDWARE_RESET (R180). -/
def execHardwareReset (storeWrites : Nat) (s : State) : Host.Outcome State Fault Refusal :=
  .next (s.hardwareReset storeWrites)

end Sys2Proof.Machine
end

