-- ==== Sys2Proof/Machine/ModeRequests.lean ====
section
/-! DEFINITION. The supervisor's mode requests: START, STOP, HOLD, RESUME, PURGE, ABORT_PURGE, DRAIN, END_DRAIN, RESET_FAULT, WARM_RESTART (R170 to R181). -/

namespace Sys2Proof.Machine

/-- START (R170): a discovery round of the UNREACHED channels; the answer is held back until it ends. A round that names
no channel ends at once. -/
def takeStart (s : State) : Taken :=
  if s.line.mode ≠ .standby then Taken.refuse .wrongMode
  else if !s.track.verified then Taken.refuse .wrongMode
  else
    let us := inverters.filter fun u => (s.channel u).state == .unreached
    if us.isEmpty then
      let d := (Ev.of s).decideStart
      .change d.1 (some d.2)
    else .change ((Ev.of s).beginRound us true) none

def execStart (port : Port) (s : State) : Host.Outcome State Fault Refusal :=
  .next (s.request port startCode takeStart)

/-- STOP (R171). -/
def takeStop (s : State) : Taken :=
  if s.line.mode.heating then Taken.accept ((Ev.of s).byWayOfStopping .standby) else Taken.refuse .wrongMode

def execStop (port : Port) (s : State) : Host.Outcome State Fault Refusal :=
  .next (s.request port 0x31 takeStop)

/-- HOLD (R173). -/
def takeHold (s : State) : Taken :=
  if s.line.mode.noLine then Taken.refuse .wrongMode else Taken.accept ((Ev.of s).addHold .supervisor)

def execHold (port : Port) (s : State) : Host.Outcome State Fault Refusal :=
  .next (s.request port 0x32 takeHold)

/-- RESUME (R173). -/
def takeResume (s : State) : Taken :=
  if s.line.mode.noLine then Taken.refuse .wrongMode else Taken.accept ((Ev.of s).removeHolds [.supervisor])

def execResume (port : Port) (s : State) : Host.Outcome State Fault Refusal :=
  .next (s.request port 0x33 takeResume)

/-- PURGE (R175). -/
def takePurge (s : State) : Taken :=
  match s.line.mode with
  | .standby =>
    if !s.track.verified then Taken.refuse .wrongMode
    else if s.billets = 0 then Taken.refuse .notFound
    else Taken.accept ((Ev.of s).changeMode .purge)
  | .hold _ =>
    if !s.track.verified then Taken.refuse .wrongMode
    else if s.billets = 0 then Taken.refuse .notFound
    else Taken.accept ((Ev.of s).byWayOfStopping .purge)
  | _ => Taken.refuse .wrongMode

def execPurge (port : Port) (s : State) : Host.Outcome State Fault Refusal :=
  .next (s.request port 0x34 takePurge)

/-- ABORT_PURGE (R175). -/
def takeAbortPurge (s : State) : Taken :=
  match s.line.mode with
  | .purge => Taken.accept ((Ev.of s).changeMode .standby)
  | .stopping .purge => Taken.accept ((Ev.of s).changeMode (.stopping .standby))
  | _ => Taken.refuse .wrongMode

def execAbortPurge (port : Port) (s : State) : Host.Outcome State Fault Refusal :=
  .next (s.request port 0x35 takeAbortPurge)

/-- DRAIN (R176). -/
def takeDrain (s : State) : Taken :=
  if s.line.mode ≠ .run then Taken.refuse .wrongMode
  else if s.billets = 0 ∧ s.track.cradle = none then Taken.refuse .notFound
  else Taken.accept (((Ev.of s).changeMode .drain).testDrain)

def execDrain (port : Port) (s : State) : Host.Outcome State Fault Refusal :=
  .next (s.request port 0x36 takeDrain)

/-- END_DRAIN (R176). -/
def takeEndDrain (s : State) : Taken :=
  if s.line.mode ≠ .drain then Taken.refuse .wrongMode else Taken.accept ((Ev.of s).changeMode .run)

def execEndDrain (port : Port) (s : State) : Host.Outcome State Fault Refusal :=
  .next (s.request port 0x37 takeEndDrain)

/-- RESET_FAULT (R179). -/
def takeResetFault (s : State) : Taken :=
  if s.line.mode ≠ .faultStop then Taken.refuse .wrongMode
  else if s.lines.lineStop then Taken.refuse .notUsable
  else if s.anyWorking || s.anyNoStop then Taken.refuse .busy
  else if s.push.record.isSome then Taken.refuse .busy
  else Taken.accept (((Ev.of s).modLine fun l => { l with stopCauses := StopCauses.none }).changeMode .standby)

def execResetFault (port : Port) (s : State) : Host.Outcome State Fault Refusal :=
  .next (s.request port 0x38 takeResetFault)

/-- The modes in which WARM_RESTART is taken (R181). -/
def Mode.restartable : Mode → Bool
  | .standby | .run | .hold _ | .drain | .purge | .stopping _ => true
  | _ => false

/-- WARM_RESTART (R181). -/
def takeWarmRestart (s : State) : Taken :=
  if !s.line.mode.restartable then Taken.refuse .wrongMode
  else if s.line.restartMark then Taken.refuse .busy
  else if s.push.record.isSome then Taken.refuse .busy
  else if s.anyNoStop then Taken.refuse .busy
  else Taken.accept (((Ev.of s).modLine fun l => { l with restartMark := true }).byWayOfStopping .standby)

def execWarmRestart (port : Port) (s : State) : Host.Outcome State Fault Refusal :=
  .next (s.request port 0x39 takeWarmRestart)

end Sys2Proof.Machine
end

