-- ==== Sys2Proof/Machine/OrderRequests.lean ====
section
/-! DEFINITION. The requests of the press and of the feeder: orders, press holds, the cradle, the reports of a push (R9, R10, R134 to R137, R151, R156, R157, R163). -/

namespace Sys2Proof.Machine

/-! ## DEMAND, CANCEL_ORDER, RELEASE_ORDER -/

/-- The FREE slot a DEMAND takes: A if A is FREE, B otherwise (R151). -/
def OrderMgr.freeSlot (o : OrderMgr) : Option SlotName :=
  if o.a.isFree then some .a else if o.b.isFree then some .b else none

/-- The acceptance order of a slot taken now (R150). -/
def OrderMgr.nextRank (o : OrderMgr) (n : SlotName) : Nat := if (o.get (otherSlot n)).isFree then 1 else 2

/-- DEMAND (R151). -/
def takeDemand (tag deadline : Nat) (s : State) : Taken :=
  if !(decide (tag ≤ 255) && decide (deadline ≤ 600)) then Taken.refuse .outOfRange
  else if s.line.mode ≠ .run ∧ s.line.mode ≠ .drain then Taken.refuse .wrongMode
  else
    match s.orders.freeSlot with
    | none => Taken.refuse .noSlot
    | some n =>
      let rank := s.orders.nextRank n
      .change (((Ev.of s).setSlot n (.pending tag rank (if deadline = 0 then none else some deadline))).dueEval)
        (some (.data (.order n rank)))

def execDemand (port : Port) (tag deadline : Nat) (s : State) : Host.Outcome State Fault Refusal :=
  .next (s.request port 0x10 (takeDemand tag deadline))

/-- CANCEL_ORDER (R156). -/
def takeCancelOrder (slot : Nat) (s : State) : Taken :=
  match slotOfCode slot with
  | none => Taken.refuse .outOfRange
  | some n =>
    if s.line.mode = .loading then Taken.refuse .wrongMode
    else
      match s.orders.get n with
      | .pending tag rank _ => Taken.accept (((Ev.of s).cancelSlot n tag rank .press).dueEval)
      | .serving _ _ _ _ => Taken.refuse .busy
      | _ => Taken.refuse .wrongMode

def execCancelOrder (port : Port) (slot : Nat) (s : State) : Host.Outcome State Fault Refusal :=
  .next (s.request port 0x11 (takeCancelOrder slot))

/-- The slot becomes FREE and the other slot, if it is not FREE, takes acceptance order 1 (R150, R157). -/
def OrderMgr.free (o : OrderMgr) (n : SlotName) : OrderMgr :=
  (o.set n .free).set (otherSlot n) ((o.get (otherSlot n)).withRank 1)

/-- RELEASE_ORDER (R157). -/
def takeReleaseOrder (slot : Nat) (s : State) : Taken :=
  match slotOfCode slot with
  | none => Taken.refuse .outOfRange
  | some n =>
    if s.line.mode = .loading then Taken.refuse .wrongMode
    else
      match s.orders.get n with
      | .filled _ _ _ | .cancelled _ _ _ | .expired _ _ => Taken.accept ((Ev.of s).modOrders fun o => o.free n)
      | _ => Taken.refuse .wrongMode

def execReleaseOrder (port : Port) (slot : Nat) (s : State) : Host.Outcome State Fault Refusal :=
  .next (s.request port 0x12 (takeReleaseOrder slot))

/-! ## PRESS_HOLD and PRESS_RUN (R163) -/

/-- PRESS_HOLD hands the cause PRESS. -/
def takePressHold (s : State) : Taken :=
  if s.line.mode.noLine then Taken.refuse .wrongMode else Taken.accept ((Ev.of s).addHold .press)

def execPressHold (port : Port) (s : State) : Host.Outcome State Fault Refusal :=
  .next (s.request port 0x13 takePressHold)

/-- PRESS_RUN hands the removal of the causes PRESS and SILENT. -/
def takePressRun (s : State) : Taken :=
  if s.line.mode.noLine then Taken.refuse .wrongMode else Taken.accept ((Ev.of s).removeHolds [.press, .silent])

def execPressRun (port : Port) (s : State) : Host.Outcome State Fault Refusal :=
  .next (s.request port 0x14 takePressRun)

/-! ## The cradle (R9, R10) -/

/-- The modes in which LOAD_BILLET is taken (R9). -/
def Mode.loadsBillets : Mode → Bool
  | .standby | .run | .hold _ | .drain | .stopping .standby | .faultStop => true
  | _ => false

/-- A push of kind BILLET is in flight. -/
def State.billetPushInFlight (s : State) : Bool := s.push.record.any fun r => r.kind == .billet

/-- LOAD_BILLET (R9). -/
def takeLoadBillet (id grade : Nat) (s : State) : Taken :=
  if !(idOk id && gradeOk grade) then Taken.refuse .outOfRange
  else if !s.line.mode.loadsBillets then Taken.refuse .wrongMode
  else if s.billetPushInFlight then Taken.refuse .busy
  else if s.track.cradle.isSome then Taken.refuse .noSlot
  else if s.track.slots.any (Slot.hasId id) then Taken.refuse .duplicate
  else
    match s.findGrade grade with
    | none => Taken.refuse .notFound
    | some i =>
      if (s.recipe i).state = .invalid then Taken.refuse .notUsable
      else
        Taken.accept
          (((Ev.of s).modTrack fun t =>
            { t with cradle := some { id := id, grade := grade, recipe := i } }).trackSignal)

def execLoadBillet (port : Port) (id grade : Nat) (s : State) : Host.Outcome State Fault Refusal :=
  .next (s.request port 0x20 (takeLoadBillet id grade))

/-- UNLOAD_CRADLE (R10). -/
def takeUnloadCradle (s : State) : Taken :=
  if s.line.mode.noLine then Taken.refuse .wrongMode
  else if s.billetPushInFlight then Taken.refuse .busy
  else if s.track.cradle = none then Taken.refuse .notFound
  else Taken.accept (((Ev.of s).modTrack fun t => { t with cradle := none }).trackSignal)

def execUnloadCradle (port : Port) (s : State) : Host.Outcome State Fault Refusal :=
  .next (s.request port 0x21 takeUnloadCradle)

/-! ## The reports of a push (R134 to R137) -/

/-- The checks of R134: the push in flight that a report names, or the refusal. -/
def State.reportedPush (s : State) (number : Nat) : Except Reason PushRecord :=
  if !inRange 1 255 number then .error .outOfRange
  else
    match s.push.record with
    | some r =>
      if r.number = number then .ok r
      else .error (if number = s.push.late then .tooLate else .notFound)
    | none => .error (if number = s.push.late then .tooLate else .notFound)

/-- PUSH_DONE (R135). -/
def takePushDone (number : Nat) (s : State) : Taken :=
  match s.reportedPush number with
  | .error r => Taken.refuse r
  | .ok r => Taken.accept ((Ev.of s).pushDone r)

def execPushDone (port : Port) (number : Nat) (s : State) : Host.Outcome State Fault Refusal :=
  .next (s.request port 0x23 (takePushDone number))

/-- PUSH_FAULT with fault kind NOT_STARTED (R136). -/
def takePushNotStarted (number : Nat) (s : State) : Taken :=
  match s.reportedPush number with
  | .error r => Taken.refuse r
  | .ok r => Taken.accept ((Ev.of s).pushNotStarted r)

def execPushFaultNotStarted (port : Port) (number : Nat) (s : State) : Host.Outcome State Fault Refusal :=
  .next (s.request port 0x24 (takePushNotStarted number))

/-- PUSH_FAULT with fault kind INCOMPLETE (R137). -/
def takePushIncomplete (number : Nat) (s : State) : Taken :=
  match s.reportedPush number with
  | .error r => Taken.refuse r
  | .ok r => Taken.accept ((Ev.of s).pushLost r .incomplete)

def execPushFaultIncomplete (port : Port) (number : Nat) (s : State) : Host.Outcome State Fault Refusal :=
  .next (s.request port 0x24 (takePushIncomplete number))

end Sys2Proof.Machine
end

