-- ==== Sys2Proof/Machine/Reads.lean ====
section
/-! DEFINITION. The read requests and the two requests the port itself owns (R48, R73, R74, R105, R133, R147, R165, R184, R192, R193, R195, R196). -/

namespace Sys2Proof.Machine

/-! ## Line status (R184) -/

def State.countChannels (s : State) (f : ChannelState → Bool) : Nat := inverters.countP fun u => f (s.channel u).state

def State.pushNumber (s : State) : Nat := (s.push.record.map PushRecord.number).getD 0

def State.lineStatus (s : State) : LineStatus :=
  { mode := s.line.mode
    restartMark := s.line.restartMark
    holdCauses := s.line.holdCauses
    holdRemaining := s.line.holdTimer.remaining s.free
    autoPurge := s.settings.limits.autoPurge
    stopCauses := s.line.stopCauses
    lineStop := s.lines.lineStop
    divert := s.lines.divert
    verified := s.track.verified
    billets := s.billets
    cradleHolds := s.track.cradle.isSome
    chargeCounter := s.track.chargeCounter
    pushNumber := s.pushNumber
    idle := s.countChannels (· == .idle)
    working := s.countChannels ChannelState.working
    faulted := s.countChannels ChannelState.isFaulted
    unreached := s.countChannels (· == .unreached)
    locked := s.countChannels ChannelState.isLocked }

/-- READ_LINE_STATUS (R184); the hold-limit time remaining is a free value (log entry 2). -/
def takeReadLineStatus (s : State) : Taken := .answer (.data (.lineStatus s.lineStatus)) 1

def execReadLineStatus (port : Port) (s : State) : Host.Outcome State Fault Refusal :=
  .next (s.request port 0x01 takeReadLineStatus)

/-! ## The track (R192, R193) -/

/-- The slot record of a position (R192). -/
def State.slotRecord (s : State) (p : Nat) (x : Slot) : SlotRecord :=
  { position := p
    content := x
    coil := s.coilOf p
    demand := match x with
      | .billet b => s.billetDemand p b
      | _ => 0 }

/-- The slot records of `count` positions from `first` on. -/
def State.slotRecords (s : State) (first count : Nat) : List SlotRecord :=
  mapNumbered s.slotRecord first ((s.track.slots.drop (first - 1)).take count)

/-- The refusals READ_TRACK and READ_TRACK_FIELD share (R192). -/
def State.trackReadRefusal (s : State) (first count top : Nat) : Option Reason :=
  if s.line.mode = .loading ∨ s.track.geometry = none then some .wrongMode
  else if inRange 1 s.positions first && inRange 1 top count && decide (first + count - 1 ≤ s.positions) then none
  else some .outOfRange

/-- READ_TRACK (R192). -/
def takeReadTrack (first count : Nat) (s : State) : Taken :=
  match s.trackReadRefusal first count 2 with
  | some r => Taken.refuse r
  | none => Taken.read (.track s.track.verified s.positions s.track.cradle (s.slotRecords first count))

def execReadTrack (port : Port) (first count : Nat) (s : State) : Host.Outcome State Fault Refusal :=
  .next (s.request port 0x02 (takeReadTrack first count))

/-- The value of a field of a slot; GAP and UNDECLARED slots read 0 (R193, R208). -/
def fieldValue (field : Nat) (r : SlotRecord) : Nat :=
  match r.content with
  | .billet b =>
    match field with
    | 1 => b.id
    | 2 => b.grade
    | 3 => b.recipe
    | 4 => b.charge.getD 0
    | 5 => thermalCode b.thermal
    | 6 => b.delivered
    | 7 => b.target.getD 0
    | 8 => b.loss
    | 9 => b.thermal.soakRemaining.getD 0
    | 10 => b.thermal.holdElapsed.getD 0
    | 11 => suspectCode b.suspect
    | 12 => codeOfFlag b.reject
    | 13 => r.demand
    | _ => 0
  | _ => 0

/-- READ_TRACK_FIELD (R193). -/
def takeReadTrackField (field first count : Nat) (s : State) : Taken :=
  match s.trackReadRefusal first count 16 with
  | some r => Taken.refuse r
  | none =>
    if inRange 1 13 field then
      let rs := s.slotRecords first count
      Taken.read (.trackField s.track.verified field (rs.map fun r => contentCode r.content) (rs.map (fieldValue field)))
    else Taken.refuse .outOfRange

def execReadTrackField (port : Port) (field first count : Nat) (s : State) : Host.Outcome State Fault Refusal :=
  .next (s.request port 0x03 (takeReadTrackField field first count))

/-! ## Orders, history, push -/

/-- The payload of READ_ORDERS (R165); the time to the next silence expiry is a free value (log entry 2). -/
def State.ordersPayload (s : State) : Payload :=
  .orders s.orders.a s.orders.b s.orders.supply s.supplyCount s.settings.limits.window s.settings.limits.lowMark
    s.settings.limits.highMark s.settings.timers.pressSilence (s.orders.silence.remaining s.free)
    s.line.holdCauses.press s.line.holdCauses.silent

/-- READ_ORDERS (R165). -/
def takeReadOrders (s : State) : Taken :=
  if s.line.mode = .loading then Taken.refuse .wrongMode else .answer (.data s.ordersPayload) 1

def execReadOrders (port : Port) (s : State) : Host.Outcome State Fault Refusal :=
  .next (s.request port 0x04 takeReadOrders)

/-- READ_HISTORY (R147): the entries of the named age and the next two older ages, newest first. -/
def takeReadHistory (age : Nat) (s : State) : Taken :=
  if 15 < age then Taken.refuse .outOfRange
  else if s.line.mode = .loading then Taken.refuse .wrongMode
  else Taken.read (.history s.push.history.length s.push.classCount ((s.push.history.reverse.drop age).take 3))

def execReadHistory (port : Port) (age : Nat) (s : State) : Host.Outcome State Fault Refusal :=
  .next (s.request port 0x05 (takeReadHistory age))

/-- READ_PUSH (R133); the push timer's remaining time is a free value (log entry 2). -/
def takeReadPush (s : State) : Taken :=
  if s.line.mode = .loading then Taken.refuse .wrongMode
  else
    .answer (.data (.push s.push.record (s.push.timer.remaining s.free) s.push.station.isSome s.push.cradleWait
      s.push.late)) 1

def execReadPush (port : Port) (s : State) : Host.Outcome State Fault Refusal :=
  .next (s.request port 0x22 takeReadPush)

/-! ## Recipes, coils, channels, queues -/

/-- The effective target a billet charged at this moment would receive, 0 for an EMPTY entry (R48). -/
def Recipe.targetNow (r : Recipe) : Nat := if r.state = .empty then 0 else effectiveTarget r.data

/-- READ_RECIPE (R48). -/
def takeReadRecipe (index : Nat) (s : State) : Taken :=
  if 47 < index then Taken.refuse .outOfRange
  else if s.line.mode = .loading then Taken.refuse .wrongMode
  else
    Taken.read (.recipe index (s.recipe index) (s.useCount index) (s.recipe index).targetNow s.recipes.learning)

def execReadRecipe (port : Port) (index : Nat) (s : State) : Host.Outcome State Fault Refusal :=
  .next (s.request port 0x52 (takeReadRecipe index))

/-- One coil's record of READ_COILS (R73). -/
def State.coilReport (s : State) (j : Nat) (c : Coil) : CoilReport :=
  { range := (s.coilRange j).getD { first := 0, last := 0, rating := 0 }
    state := c.state
    disable := c.disable
    demand := c.demand
    leadPosition := (c.lead.map Lead.position).getD 0
    group := c.lead.map Lead.group
    cls := s.classOf j
    usable := inverters.countP fun u => s.usable u j
    unattributed := (at1 s.track.unattributed j).getD 0 }

/-- READ_COILS (R73). -/
def takeReadCoils (s : State) : Taken :=
  if s.line.mode = .loading then Taken.refuse .wrongMode
  else
    Taken.read (.coils s.alloc.effective (s.alloc.pendingLimit.getD 0) s.alloc.pendingLimit.isSome s.committed s.headroom
      s.settings.limits.threshold (mapNumbered s.coilReport 1 s.alloc.coils))

def execReadCoils (port : Port) (s : State) : Host.Outcome State Fault Refusal :=
  .next (s.request port 0x74 takeReadCoils)

/-- One crosspoint's record of READ_CHANNELS (R105). -/
def State.crosspointReport (s : State) (x : Crosspoint) : CrosspointReport :=
  { inverter := x.inverter
    coil := x.coil
    state := x.state
    drive := x.drive
    feedback := s.feedbackClosed x.inverter x.coil
    drop := x.drop }

/-- READ_CHANNELS (R105). The response gives the fields of R75 of each record; the model's own items of a channel are no
part of it (log entry 42). -/
def takeReadChannels (s : State) : Taken :=
  if s.line.mode = .loading then Taken.refuse .wrongMode
  else Taken.read (.channels s.channels (s.matrix.map s.crosspointReport))

def execReadChannels (port : Port) (s : State) : Host.Outcome State Fault Refusal :=
  .next (s.request port 0x75 takeReadChannels)

/-- The grant of a channel as READ_QUEUES lists it (R74). -/
def State.grantReport (s : State) (u : Inv) : Option GrantReport :=
  (s.alloc.grants.get u).map fun g =>
    { channel := u
      coil := g.coil
      number := g.number
      setpoint := (s.channel u).grantSetpoint
      released := g.released
      sliceRemaining := (s.alloc.slice.get u).remaining (s.free + Inv.num u - 1) }

/-- READ_QUEUES (R74); the slice times remaining are free values (log entry 2). -/
def takeReadQueues (s : State) : Taken :=
  if s.line.mode = .loading then Taken.refuse .wrongMode
  else
    .answer (.data (.queues s.alloc.queues.q3 s.alloc.queues.q2 s.alloc.queues.q1 s.alloc.queues.q0
      (inverters.filterMap s.grantReport))) 4

def execReadQueues (port : Port) (s : State) : Host.Outcome State Fault Refusal :=
  .next (s.request port 0x76 takeReadQueues)

/-! ## ACK_EVENTS and SET_EVENT_MASK (R195, R196) -/

/-- The configuration result is an item of the supervisor port alone (R185, R195). -/
def State.configResult (s : State) : Port → Option ConfigResult
  | .supervisor => some s.loader.result
  | _ => none

/-- ACK_EVENTS (R195): the flags before, the flags after, the mask. -/
def takeAckEvents (port : Port) (kinds : List Nat) (s : State) : Taken :=
  match kindsOfCodes port kinds with
  | none => Taken.refuse .outOfRange
  | some ks =>
    let r := s.ports.get port
    .change (Ev.of (s.modPort port fun x => { x with flags := x.flags.putAll ks false }))
      (some (.data (.events r.flags (r.flags.putAll ks false) r.mask (s.configResult port))))

def execAckEvents (port : Port) (kinds : List Nat) (s : State) : Host.Outcome State Fault Refusal :=
  .next (s.request port 0x06 (takeAckEvents port kinds))

/-- SET_EVENT_MASK (R196): the mask holds exactly the kinds of the list. -/
def takeSetEventMask (port : Port) (kinds : List Nat) (s : State) : Taken :=
  match kindsOfCodes port kinds with
  | none => Taken.refuse .outOfRange
  | some ks => Taken.accept (Ev.of (s.modPort port fun x => { x with mask := EventSet.none.putAll ks true }))

def execSetEventMask (port : Port) (kinds : List Nat) (s : State) : Host.Outcome State Fault Refusal :=
  .next (s.request port 0x07 (takeSetEventMask port kinds))

end Sys2Proof.Machine
end

