-- ==== Sys2Proof/Machine/Transactions.lean ====
section
/-! DEFINITION. The transactions of a port given as bytes: the selector, REQUEST_TRANSACTION with the payloads of R207, and FETCH (R185 to R191, R207). -/

namespace Sys2Proof.Machine

/-- What a payload spells for a request: none for a length the request does not take, some none for a code that names
nothing (refused OUT_OF_RANGE by the owning block, R206), and otherwise the request. -/
abbrev ParsedRequest := Option (Option (State → Taken))

def emptyPayload (ns : List Nat) (take : State → Taken) : ParsedRequest := if ns.isEmpty then some (some take) else none

/-- A payload of one byte. -/
def bytePayload (ns : List Nat) (take : Nat → State → Taken) : ParsedRequest :=
  match ns with
  | [x] => some (some (take x))
  | _ => none

/-- A payload of a fixed length whose values may spell nothing. -/
def fixedPayload {α : Type} (len : Nat) (ns : List Nat) (x : Option α) (take : α → State → Taken) : ParsedRequest :=
  if ns.length = len then some (x.map take) else none

/-- The entries of DECLARE_SLOTS: kind, billet id and grade each (R207). -/
def entriesOf : List Nat → Option (List DeclEntry)
  | [] => some []
  | k :: i3 :: i2 :: i1 :: i0 :: g1 :: g0 :: rest =>
    match k, entriesOf rest with
    | 0, some es => some (.gap :: es)
    | 1, some es => some (.billet (ofBigEndian [i3, i2, i1, i0]) (ofBigEndian [g1, g0]) :: es)
    | _, _ => none
  | _ => none

/-- 1 + 7 per entry, for 1 to 7 entries. -/
def declarePayload (ns : List Nat) : ParsedRequest :=
  match ns with
  | first :: rest =>
    if rest.length % 7 = 0 ∧ 1 ≤ rest.length / 7 ∧ rest.length / 7 ≤ 7 then
      some ((entriesOf rest).map fun es => takeDeclareSlots first es)
    else none
  | [] => none

/-- Requests open to every port (codes 01h to 07h). -/
def parseCommon (p : Port) (code : Nat) (ns : List Nat) : ParsedRequest :=
  match code with
  | 0x01 => emptyPayload ns takeReadLineStatus
  | 0x02 =>
    match ns with
    | [a, b] => some (some (takeReadTrack a b))
    | _ => none
  | 0x03 =>
    match ns with
    | [f, a, b] => some (some (takeReadTrackField f a b))
    | _ => none
  | 0x04 => emptyPayload ns takeReadOrders
  | 0x05 => bytePayload ns takeReadHistory
  | 0x06 => if ns.length ≤ 16 then some (some (takeAckEvents p ns)) else none
  | 0x07 => if ns.length ≤ 16 then some (some (takeSetEventMask p ns)) else none
  | _ => none

/-- Requests of the press (codes 10h to 14h). -/
def parsePress (code : Nat) (ns : List Nat) : ParsedRequest :=
  match code with
  | 0x10 =>
    match ns with
    | [t, d1, d0] => some (some (takeDemand t (ofBigEndian [d1, d0])))
    | _ => none
  | 0x11 => bytePayload ns takeCancelOrder
  | 0x12 => bytePayload ns takeReleaseOrder
  | 0x13 => emptyPayload ns takePressHold
  | 0x14 => emptyPayload ns takePressRun
  | _ => none

/-- Requests of the feeder (codes 20h to 24h); the fault kind is 1 NOT_STARTED or 2 INCOMPLETE. -/
def parseFeeder (code : Nat) (ns : List Nat) : ParsedRequest :=
  match code with
  | 0x20 =>
    match ns with
    | [i3, i2, i1, i0, g1, g0] =>
      some (some (takeLoadBillet (ofBigEndian [i3, i2, i1, i0]) (ofBigEndian [g1, g0])))
    | _ => none
  | 0x21 => emptyPayload ns takeUnloadCradle
  | 0x22 => emptyPayload ns takeReadPush
  | 0x23 => bytePayload ns takePushDone
  | 0x24 =>
    match ns with
    | [n, 1] => some (some (takePushNotStarted n))
    | [n, 2] => some (some (takePushIncomplete n))
    | [_, _] => some none
    | _ => none
  | _ => none

/-- Mode requests (codes 30h to 39h). -/
def parseMode (code : Nat) (ns : List Nat) : ParsedRequest :=
  match code with
  | 0x30 => emptyPayload ns takeStart
  | 0x31 => emptyPayload ns takeStop
  | 0x32 => emptyPayload ns takeHold
  | 0x33 => emptyPayload ns takeResume
  | 0x34 => emptyPayload ns takePurge
  | 0x35 => emptyPayload ns takeAbortPurge
  | 0x36 => emptyPayload ns takeDrain
  | 0x37 => emptyPayload ns takeEndDrain
  | 0x38 => emptyPayload ns takeResetFault
  | 0x39 => emptyPayload ns takeWarmRestart
  | _ => none

/-- A position and a billet id. -/
def billetPayload (ns : List Nat) (take : Nat → Nat → State → Taken) : ParsedRequest :=
  match ns with
  | [p, i3, i2, i1, i0] => some (some (take p (ofBigEndian [i3, i2, i1, i0])))
  | _ => none

/-- The RECIPE payload and the keep flag. -/
def writeRecipePayload (ns : List Nat) : ParsedRequest :=
  if ns.length = 31 then
    match recipeOfBytes (ns.take 30), (ns.getLast?).bind flagOfCode with
    | some (i, d), some keep => some (some (takeWriteRecipe i d keep))
    | _, _ => some none
  else none

/-- Track and recipe requests (codes 40h to 53h). -/
def parseTrack (code : Nat) (ns : List Nat) : ParsedRequest :=
  match code with
  | 0x40 => emptyPayload ns takeTrackClear
  | 0x41 => declarePayload ns
  | 0x42 => billetPayload ns takeMarkReject
  | 0x43 => billetPayload ns takeClearSuspect
  | 0x50 => writeRecipePayload ns
  | 0x51 => bytePayload ns takeDeleteRecipe
  | 0x52 => bytePayload ns takeReadRecipe
  | 0x53 => fixedPayload 4 ns (learningOf ns) takeSetLearning
  | _ => none

/-- The two forms of SET_LINE_LIMIT differ in length. -/
def lineLimitPayload (ns : List Nat) : ParsedRequest :=
  match ns with
  | [l1, l0] => some (some (takeSetLineLimit (ofBigEndian [l1, l0])))
  | _ => fixedPayload 9 ns (limitsOf ns) fun x => takeSetLineLimitLong x.1 x.2

/-- Configuration, coil and channel requests (codes 60h to 7Fh). -/
def parseConfig (code : Nat) (ns : List Nat) : ParsedRequest :=
  match code with
  | 0x60 => (lineOf ns).map fun g => some (takeSetLine g)
  | 0x61 => (reachOf ns).map fun m => some (takeSetReach m)
  | 0x62 => fixedPayload 19 ns (timersOf ns) takeSetTimers
  | 0x63 => fixedPayload 11 ns (urgencyOf ns) takeSetUrgencyMap
  | 0x64 => lineLimitPayload ns
  | 0x70 => bytePayload ns takeDisableCoil
  | 0x71 => bytePayload ns takeEnableCoil
  | 0x72 => bytePayload ns takeClearChannel
  | 0x73 => bytePayload ns fun b => takeReleaseLockout (crosspointOf b)
  | 0x74 => emptyPayload ns takeReadCoils
  | 0x75 => emptyPayload ns takeReadChannels
  | 0x76 => emptyPayload ns takeReadQueues
  | 0x7F => emptyPayload ns takeStoreConfig
  | _ => none

/-- The request a code and a payload spell (R207). -/
def parseRequest (p : Port) (code : Nat) (ns : List Nat) : ParsedRequest :=
  if code < 0x10 then parseCommon p code ns
  else if code < 0x20 then parsePress code ns
  else if code < 0x30 then parseFeeder code ns
  else if code < 0x40 then parseMode code ns
  else if code < 0x60 then parseTrack code ns
  else parseConfig code ns

/-- A request frame that passes its check, through the port's own checks in the order of R189. -/
def State.checkedFrame (s : State) (p : Port) (code : Byte) (payload : List Nat) : State :=
  if !codeKnown code.toNat then s.refusedAtPort p code .unknownRequest
  else if !permitted p code.toNat then s.refusedAtPort p code .notPermitted
  else
    match parseRequest p code.toNat payload with
    | none => s.refusedAtPort p code .badLength
    | some none => s.request p code fun _ => Taken.refuse .outOfRange
    | some (some take) => s.request p code take

/-- A request transaction with the bytes shifted in after its selector (R187 to R189). -/
def State.requested (s : State) (p : Port) (bytes : List Byte) : State :=
  if frameOk bytes then s.checkedFrame p (bytes.head?.getD 0) (((bytes.drop 2).dropLast).map BitVec.toNat)
  else s.badFrame p bytes

/-- How far a FETCH of `clocked` bytes after the status byte went (R191). -/
def State.fetchExtent (s : State) (p : Port) (clocked : Nat) : FetchExtent :=
  if (responseFrame ((s.ports.get p).response p)).length ≤ clocked then .whole else .partly

/-- The end of a transaction by what its selector asks for (R186). A status read changes no item of the port record. -/
def State.transferred (s : State) (p : Port) (bytes : List Byte) : Transfer → State
  | .request => s.requested p bytes
  | .fetch => s.fetched p (s.fetchExtent p bytes.length)
  | .status => s.shiftOut p none

/-- A transaction by its opening (R185, R186): its chip select is asserted; or it ends, by its selector, or without effect where
it ends before its first byte is whole or its chip select was asserted before a hardware reset ended. -/
def State.transaction (s : State) (p : Port) (bytes : List Byte) : Opening → State
  | .asserted => s.modPort p fun x => x.assert p
  | .unfinished | .beforeReset => s.deselect p
  | .selector b => s.ended p fun s => s.transferred p bytes (transferOf b)

/-- REQUEST_TRANSACTION: the assertion of chip select, or a transaction as bytes (R185 to R191). -/
def execRequestTransaction (port : Port) (bytes : List Byte) (s : State) (opening : Opening := .selector 0xA5) :
    Host.Outcome State Fault Refusal :=
  .next (s.transaction port bytes opening)

/-- FETCH (R191). -/
def execFetch (port : Port) (extent : FetchExtent) (s : State) : Host.Outcome State Fault Refusal :=
  .next (s.fetched port extent)

end Sys2Proof.Machine
end

