-- ==== Sys2Proof/Machine/Dispatch.lean ====
section
/-! DEFINITION. One arm per command: a direct call of its meaning. -/

namespace Sys2Proof.Machine

/-- The effect of a command on everything but the queue. -/
def exec (i : Instr) (s : State) : Host.Outcome State Fault Refusal :=
  match i with
  | .hardwareReset storeWrites => Sys2Proof.Machine.execHardwareReset storeWrites s
  | .lineStopAsserted => Sys2Proof.Machine.execLineStopAsserted s
  | .lineStopDeasserted => Sys2Proof.Machine.execLineStopDeasserted s
  | .imageApplied => Sys2Proof.Machine.execImageApplied s
  | .loadFailed noAck => Sys2Proof.Machine.execLoadFailed noAck s
  | .storeCompleteOk => Sys2Proof.Machine.execStoreCompleteOk s
  | .storeNoAck writes => Sys2Proof.Machine.execStoreNoAck writes s
  | .requestTransaction port bytes opening => Sys2Proof.Machine.execRequestTransaction port bytes s opening
  | .fetch port extent => Sys2Proof.Machine.execFetch port extent s
  | .readLineStatus port => Sys2Proof.Machine.execReadLineStatus port s
  | .readTrack port first count => Sys2Proof.Machine.execReadTrack port first count s
  | .readTrackField port field first count => Sys2Proof.Machine.execReadTrackField port field first count s
  | .readOrders port => Sys2Proof.Machine.execReadOrders port s
  | .readHistory port age => Sys2Proof.Machine.execReadHistory port age s
  | .ackEvents port kinds => Sys2Proof.Machine.execAckEvents port kinds s
  | .setEventMask port kinds => Sys2Proof.Machine.execSetEventMask port kinds s
  | .demand port tag deadline => Sys2Proof.Machine.execDemand port tag deadline s
  | .cancelOrder port slot => Sys2Proof.Machine.execCancelOrder port slot s
  | .releaseOrder port slot => Sys2Proof.Machine.execReleaseOrder port slot s
  | .pressHold port => Sys2Proof.Machine.execPressHold port s
  | .pressRun port => Sys2Proof.Machine.execPressRun port s
  | .loadBillet port id grade => Sys2Proof.Machine.execLoadBillet port id grade s
  | .unloadCradle port => Sys2Proof.Machine.execUnloadCradle port s
  | .readPush port => Sys2Proof.Machine.execReadPush port s
  | .pushDone port number => Sys2Proof.Machine.execPushDone port number s
  | .pushFaultNotStarted port number => Sys2Proof.Machine.execPushFaultNotStarted port number s
  | .pushFaultIncomplete port number => Sys2Proof.Machine.execPushFaultIncomplete port number s
  | .start port => Sys2Proof.Machine.execStart port s
  | .stop port => Sys2Proof.Machine.execStop port s
  | .hold port => Sys2Proof.Machine.execHold port s
  | .resume port => Sys2Proof.Machine.execResume port s
  | .purge port => Sys2Proof.Machine.execPurge port s
  | .abortPurge port => Sys2Proof.Machine.execAbortPurge port s
  | .drain port => Sys2Proof.Machine.execDrain port s
  | .endDrain port => Sys2Proof.Machine.execEndDrain port s
  | .resetFault port => Sys2Proof.Machine.execResetFault port s
  | .warmRestart port => Sys2Proof.Machine.execWarmRestart port s
  | .trackClear port => Sys2Proof.Machine.execTrackClear port s
  | .declareSlots port first entries => Sys2Proof.Machine.execDeclareSlots port first entries s
  | .markReject port position id => Sys2Proof.Machine.execMarkReject port position id s
  | .clearSuspect port position id => Sys2Proof.Machine.execClearSuspect port position id s
  | .writeRecipe port index data keep => Sys2Proof.Machine.execWriteRecipe port index data keep s
  | .deleteRecipe port index => Sys2Proof.Machine.execDeleteRecipe port index s
  | .readRecipe port index => Sys2Proof.Machine.execReadRecipe port index s
  | .setLearning port settings => Sys2Proof.Machine.execSetLearning port settings s
  | .setLine port geometry => Sys2Proof.Machine.execSetLine port geometry s
  | .setReach port map => Sys2Proof.Machine.execSetReach port map s
  | .setTimers port settings => Sys2Proof.Machine.execSetTimers port settings s
  | .setUrgencyMap port map => Sys2Proof.Machine.execSetUrgencyMap port map s
  | .setLineLimit port limit => Sys2Proof.Machine.execSetLineLimit port limit s
  | .setLineLimitLong port limit settings => Sys2Proof.Machine.execSetLineLimitLong port limit settings s
  | .disableCoil port coil => Sys2Proof.Machine.execDisableCoil port coil s
  | .enableCoil port coil => Sys2Proof.Machine.execEnableCoil port coil s
  | .clearChannel port channel => Sys2Proof.Machine.execClearChannel port channel s
  | .releaseLockout port name => Sys2Proof.Machine.execReleaseLockout port name s
  | .readCoils port => Sys2Proof.Machine.execReadCoils port s
  | .readChannels port => Sys2Proof.Machine.execReadChannels port s
  | .readQueues port => Sys2Proof.Machine.execReadQueues port s
  | .storeConfig port => Sys2Proof.Machine.execStoreConfig port s
  | .lineSecond => Sys2Proof.Machine.execLineSecond s
  | .soakRemainingZero position => Sys2Proof.Machine.execSoakRemainingZero position s
  | .holdElapsedExceeded position => Sys2Proof.Machine.execHoldElapsedExceeded position s
  | .orderDeadlineExpiry slot => Sys2Proof.Machine.execOrderDeadlineExpiry slot s
  | .sliceExpiry channel => Sys2Proof.Machine.execSliceExpiry channel s
  | .pollPeriodExpiry => Sys2Proof.Machine.execPollPeriodExpiry s
  | .replyTimeout => Sys2Proof.Machine.execReplyTimeout s
  | .quietIntervalEnd => Sys2Proof.Machine.execQuietIntervalEnd s
  | .retryDelayExpiry channel => Sys2Proof.Machine.execRetryDelayExpiry channel s
  | .rejectLimitReached channel => Sys2Proof.Machine.execRejectLimitReached channel s
  | .channelLost channel => Sys2Proof.Machine.execChannelLost channel s
  | .stopConfirmExpiry channel => Sys2Proof.Machine.execStopConfirmExpiry channel s
  | .feedbackTimeout inverter coil => Sys2Proof.Machine.execFeedbackTimeout inverter coil s
  | .discoveryHoldbackExpiry channel => Sys2Proof.Machine.execDiscoveryHoldbackExpiry channel s
  | .pushTimeout => Sys2Proof.Machine.execPushTimeout s
  | .measureTimeout => Sys2Proof.Machine.execMeasureTimeout s
  | .pressSilenceExpiry => Sys2Proof.Machine.execPressSilenceExpiry s
  | .holdLimitExpiry => Sys2Proof.Machine.execHoldLimitExpiry s
  | .feedbackClosed inverter coil => Sys2Proof.Machine.execFeedbackClosed inverter coil s
  | .feedbackOpen inverter coil => Sys2Proof.Machine.execFeedbackOpen inverter coil s
  | .sendNextTransaction received => Sys2Proof.Machine.execSendNextTransaction s received
  | .accept unit => Sys2Proof.Machine.execAccept unit s
  | .reject unit reason => Sys2Proof.Machine.execReject unit reason s
  | .state unit report => Sys2Proof.Machine.execState unit report s
  | .badReply frame => Sys2Proof.Machine.execBadReply frame s
  | .strayReply frame => Sys2Proof.Machine.execStrayReply frame s
  | .unsolicitedReply frame => Sys2Proof.Machine.execUnsolicitedReply frame s
  | .pyrometerReading status temperature => Sys2Proof.Machine.execPyrometerReading status temperature s
  | .pyrometerBadFrame chars => Sys2Proof.Machine.execPyrometerBadFrame chars s
  | .pyrometerCharacterGap => Sys2Proof.Machine.execPyrometerCharacterGap s

end Sys2Proof.Machine
end

