-- ==== Sys2Proof/WellFormed.lean ====
section
/-! DEFINITION. Which terms of Instr are commands a sender can post: every number fits the field that carries it (R207 to R212). Values out of the manual's own ranges are well-formed: the part refuses them. -/

namespace Sys2Proof

/-- A one-byte field. -/
def fitsByte (n : Nat) : Bool := n < 256

/-- A two-byte field. -/
def fitsWord (n : Nat) : Bool := n < 65536

/-- A four-byte field. -/
def fitsQuad (n : Nat) : Bool := n < 4294967296

/-- A rating is sent in units of 10 kW in one byte (R212). -/
def fitsRating (kw : Nat) : Bool := kw % 10 == 0 && kw / 10 < 256

def DeclEntry.wf : DeclEntry → Bool
  | .gap => true
  | .billet id grade => fitsQuad id && fitsWord grade

def CoilRange.wf (c : CoilRange) : Bool := fitsByte c.first && fitsByte c.last && fitsRating c.rating

/-- A LINE payload has 3 + 3n + m bytes and a request frame at most 56 (R187, R212). -/
def Geometry.wf (g : Geometry) : Bool :=
  fitsByte g.positions && g.coils.all CoilRange.wf && g.ratings.all fitsRating &&
    3 + 3 * g.coils.length + g.ratings.length ≤ 56

/-- A crosspoint is one byte: inverter in bits 7..4, coil in bits 3..0 (R212). -/
def CrosspointName.wf (c : CrosspointName) : Bool := c.inverter < 16 && c.coil < 16

def RecipeData.wf (r : RecipeData) : Bool :=
  fitsWord r.grade && fitsWord r.target && r.fractions.length == 12 && r.fractions.all fitsByte &&
    fitsWord r.soak && fitsWord r.maxHold && fitsWord r.lossRate && fitsWord r.windowLow &&
    fitsWord r.windowHigh && decide (-32768 ≤ r.correction) && decide (r.correction < 32768)

def LearningSettings.wf (l : LearningSettings) : Bool :=
  fitsByte l.step && fitsByte l.deadBand && fitsByte l.limit

def TimerSettings.wf (t : TimerSettings) : Bool :=
  fitsByte t.slice && fitsWord t.pollPeriod && fitsByte t.replyTimeout && fitsByte t.lostThreshold &&
    fitsByte t.rejectLimit && fitsWord t.retryDelay && fitsWord t.stopConfirm &&
    fitsWord t.feedbackTimeout && fitsByte t.pushTimeout && fitsWord t.measureTimeout &&
    fitsWord t.pressSilence && fitsByte t.holdLimit

def BandClasses.wf (b : BandClasses) : Bool :=
  fitsByte b.band0 && fitsByte b.band1 && fitsByte b.band2 && fitsByte b.band3

def UrgencyMap.wf (u : UrgencyMap) : Bool :=
  u.heating.wf && u.holding.wf && fitsByte u.b1 && fitsByte u.b2 && fitsByte u.b3

def LimitSettings.wf (l : LimitSettings) : Bool :=
  fitsWord l.threshold && fitsByte l.window && fitsByte l.lowMark && fitsByte l.highMark

/-- The fault code of a STATE reply has two bytes, like the counter and the power (R209). -/
def StateReport.wf (r : StateReport) : Bool :=
  fitsWord r.counter && fitsWord r.power && r.faultCode.all fitsWord

/-- A feedback input is one of the 48 of U1..U4 by C1..C12. -/
def fitsCoil (j : Nat) : Bool := 1 ≤ j && j ≤ 12

/-- A position of the longest line (00_scope). -/
def fitsPosition (p : Nat) : Bool := 1 ≤ p && p ≤ 32

/-- A command a sender can post. -/
def Instr.wf : Instr → Bool
  | .hardwareReset storeWrites => storeWrites ≤ 8193
  | .lineStopAsserted => true
  | .lineStopDeasserted => true
  | .imageApplied => true
  | .loadFailed noAck => noAck.all (· < 8192)
  | .storeCompleteOk => true
  | .storeNoAck writes => writes ≤ 8192
  | .requestTransaction _ _ _ => true
  | .fetch _ _ => true
  | .readLineStatus _ => true
  | .readTrack _ first count => fitsByte first && fitsByte count
  | .readTrackField _ field first count => fitsByte field && fitsByte first && fitsByte count
  | .readOrders _ => true
  | .readHistory _ age => fitsByte age
  | .ackEvents _ kinds => kinds.length ≤ 16 && kinds.all fitsByte
  | .setEventMask _ kinds => kinds.length ≤ 16 && kinds.all fitsByte
  | .demand _ tag deadline => fitsByte tag && fitsWord deadline
  | .cancelOrder _ slot => fitsByte slot
  | .releaseOrder _ slot => fitsByte slot
  | .pressHold _ => true
  | .pressRun _ => true
  | .loadBillet _ id grade => fitsQuad id && fitsWord grade
  | .unloadCradle _ => true
  | .readPush _ => true
  | .pushDone _ number => fitsByte number
  | .pushFaultNotStarted _ number => fitsByte number
  | .pushFaultIncomplete _ number => fitsByte number
  | .start _ => true
  | .stop _ => true
  | .hold _ => true
  | .resume _ => true
  | .purge _ => true
  | .abortPurge _ => true
  | .drain _ => true
  | .endDrain _ => true
  | .resetFault _ => true
  | .warmRestart _ => true
  | .trackClear _ => true
  | .declareSlots _ first entries =>
    fitsByte first && 1 ≤ entries.length && entries.length ≤ 7 && entries.all DeclEntry.wf
  | .markReject _ position id => fitsByte position && fitsQuad id
  | .clearSuspect _ position id => fitsByte position && fitsQuad id
  | .writeRecipe _ index data _ => fitsByte index && data.wf
  | .deleteRecipe _ index => fitsByte index
  | .readRecipe _ index => fitsByte index
  | .setLearning _ settings => settings.wf
  | .setLine _ geometry => geometry.wf
  | .setReach _ map => map.length ≤ 55 && map.all CrosspointName.wf
  | .setTimers _ settings => settings.wf
  | .setUrgencyMap _ map => map.wf
  | .setLineLimit _ limit => fitsWord limit
  | .setLineLimitLong _ limit settings => fitsWord limit && settings.wf
  | .disableCoil _ coil => fitsByte coil
  | .enableCoil _ coil => fitsByte coil
  | .clearChannel _ channel => fitsByte channel
  | .releaseLockout _ name => name.wf
  | .readCoils _ => true
  | .readChannels _ => true
  | .readQueues _ => true
  | .storeConfig _ => true
  | .lineSecond => true
  | .soakRemainingZero position => fitsPosition position
  | .holdElapsedExceeded position => fitsPosition position
  | .orderDeadlineExpiry _ => true
  | .sliceExpiry _ => true
  | .pollPeriodExpiry => true
  | .replyTimeout => true
  | .quietIntervalEnd => true
  | .retryDelayExpiry _ => true
  | .rejectLimitReached _ => true
  | .channelLost _ => true
  | .stopConfirmExpiry _ => true
  | .feedbackTimeout _ coil => fitsCoil coil
  | .discoveryHoldbackExpiry _ => true
  | .pushTimeout => true
  | .measureTimeout => true
  | .pressSilenceExpiry => true
  | .holdLimitExpiry => true
  | .feedbackClosed _ coil => fitsCoil coil
  | .feedbackOpen _ coil => fitsCoil coil
  | .sendNextTransaction _ => true
  | .accept unit => fitsByte unit
  | .reject unit _ => fitsByte unit
  | .state unit report => fitsByte unit && report.wf
  | .badReply _ => true
  | .strayReply _ => true
  | .unsolicitedReply _ => true
  | .pyrometerReading _ temperature => temperature ≤ 2000
  | .pyrometerBadFrame chars => chars.length == 4
  | .pyrometerCharacterGap => true

end Sys2Proof
end

