-- ==== Sys2Proof/Certificates/Slice0/Obligations.lean ====
section
/-! DEFINITION. The statements for the provers, and the words they are written in (namespace Stated): what an answered request leaves, which event flags an event may set, the tables of the manual. -/

open Sys2Proof Sys2Proof.Machine

namespace Sys2Proof.Stated

/-! ## Words for requests and answers -/

/-- A port takes the bytes of its transaction: chip select was not asserted before a hardware reset ended (R185). -/
abbrev Heeded (s : State) (p : Port) : Prop := (s.ports.get p).select ≠ .ignored

/-- A request transaction on a port finds the port IDLE. -/
def Idle (s : State) (p : Port) : Prop := (s.ports.get p).state = .idle ∧ Heeded s p

/-- A request transaction on a port finds the port in PROCESSING or RESPONSE_READY. -/
def Busy (s : State) (p : Port) : Prop := (s.ports.get p).state ≠ .idle ∧ Heeded s p

/-- The status byte and the port state of a transaction that now ends: those taken when an earlier command asserted chip select;
otherwise the command asserts it, and they are the record's (R186, R191). -/
def taken (s : State) (p : Port) : Byte × PortState :=
  match (s.ports.get p).select with
  | .selected status start => (status, start)
  | _ => ((s.ports.get p).statusByte p, (s.ports.get p).state)

/-- A port whose transaction has ended, shifting out a response or none. -/
def shiftedOut (s : State) (p : Port) (response : Option ShiftedResponse) : PortRec :=
  { s.ports.get p with select := .released, shifted := some { status := (taken s p).1, response := response } }

/-- The state after a transaction that ended without an effect. -/
def deasserted (s : State) (p : Port) : State :=
  { s with ports := s.ports.set p { s.ports.get p with select := .released } }

/-- The order manager after a frame of a port: a press frame restarts the press silence timer if it runs (R164). -/
def ordersHeard (s : State) (p : Port) : OrderMgr :=
  if p = .press then
    (match s.orders.silence with
      | .stopped => s.orders
      | .running _ => { s.orders with silence := timerFrom s.settings.timers.pressSilence })
  else s.orders

/-- The state after a request on port `p` that was answered with `body` and changed nothing else: the held response, and
the status byte the transaction shifted out (R186, R189). -/
def answered (s : State) (p : Port) (code : Byte) (body : ResponseBody) : State :=
  { s with
    ports := s.ports.set p
      { shiftedOut s p none with state := .ready { code := code, body := body } }
    orders := ordersHeard s p }

/-- The state after a request that was refused. -/
def refused (s : State) (p : Port) (code : Byte) (r : Reason) : State := answered s p code (.refused r)

/-- In `t` port `p` holds the answer, its chip select is deasserted, and it has shifted out the status byte taken at the
assertion; the state, the chip select and the output of the other ports are those of `s`. -/
def Answers (s t : State) (p : Port) (code : Byte) (body : ResponseBody) : Prop :=
  (t.ports.get p).state = .ready { code := code, body := body } ∧
    (t.ports.get p).select = .released ∧ (t.ports.get p).shifted = some { status := (taken s p).1, response := none } ∧
    ∀ q, q ≠ p → (t.ports.get q).state = (s.ports.get q).state ∧ (t.ports.get q).select = (s.ports.get q).select ∧
      (t.ports.get q).shifted = (s.ports.get q).shifted

/-- No port changes its state, its chip select with the status byte taken at its assertion, or its output. -/
def PortsQuiet (s t : State) : Prop :=
  ∀ q, (t.ports.get q).state = (s.ports.get q).state ∧ (t.ports.get q).select = (s.ports.get q).select ∧
    (t.ports.get q).shifted = (s.ports.get q).shifted

/-- OVERRUN and the masks are kept, no event flag is cleared, and no flag but those listed is set. -/
def FlagsWithin (s t : State) (may : List (Port × EventKind)) : Prop :=
  ∀ q, (t.ports.get q).overrun = (s.ports.get q).overrun ∧ (t.ports.get q).mask = (s.ports.get q).mask ∧
    ∀ k, ((s.ports.get q).flags.has k = true → (t.ports.get q).flags.has k = true) ∧
      ((q, k) ∉ may → (t.ports.get q).flags.has k = (s.ports.get q).flags.has k)

/-- The flag of a kind is set on a port. -/
def Raised (t : State) (p : Port) (k : EventKind) : Prop := (t.ports.get p).flags.has k = true

/-- MODE_CHANGED is set on the three ports (R166). -/
def ModeChanged (t : State) : Prop := ∀ q, Raised t q .modeChanged

/-- The state with one more event raised. -/
def raise (s : State) (p : Port) (k : EventKind) : State :=
  { s with ports := s.ports.set p { s.ports.get p with flags := (s.ports.get p).flags.put k true } }

/-- The events a push evaluation may raise (R130, R131). -/
def pushEvents : List (Port × EventKind) := [(.feeder, .pushOrdered), (.feeder, .cradleWanted)]

/-- The events a change of mode other than an entry into FAULT_STOP may raise. -/
def modeEvents : List (Port × EventKind) :=
  [(.press, .modeChanged), (.feeder, .modeChanged), (.supervisor, .modeChanged), (.press, .orderChanged),
    (.press, .supplyChanged)] ++ pushEvents

/-- The state after one push evaluation (R127); what it does is the statement PushEvaluation. -/
def evaluated (s : State) : State := (Ev.of s).evaluate.s

/-- An upper bound of the time a read may report for a timer: 0 when it is stopped. -/
def bound : Timer → Nat
  | .stopped => 0
  | .running d => d

/-- Everything but the line mode, the order slots and the supply indicator, the push controller and the ports is as it was. -/
def OnlyOrdersAndPushes (s t : State) : Prop :=
  t = { s with line := t.line, orders := t.orders, push := t.push, ports := t.ports }

/-- Everything the track manager, the recipe table, the inputs, DIVERT, the settings, the loader and the model's queue
hold is as it was. -/
def TrackKept (s t : State) : Prop :=
  t = { s with
    line := t.line, alloc := t.alloc, channels := t.channels, matrix := t.matrix, link := t.link, push := t.push
    orders := t.orders, ports := t.ports }

/-- Only the track, the coils, the channels and what an evaluation changes differ: the line mode and its items, the
inputs and DIVERT, the recipes, the settings, the loader and the model's queue are as they were. -/
def LineKept (s t : State) : Prop :=
  t = { s with
    track := t.track, alloc := t.alloc, channels := t.channels, matrix := t.matrix, link := t.link, push := t.push
    orders := t.orders, ports := t.ports }

/-- The port and the request code of each request row (R207); none for the other rows. -/
def requestOf : Instr → Option (Port × Byte)
  | .readLineStatus p => some (p, 0x01)
  | .readTrack p _ _ => some (p, 0x02)
  | .readTrackField p _ _ _ => some (p, 0x03)
  | .readOrders p => some (p, 0x04)
  | .readHistory p _ => some (p, 0x05)
  | .ackEvents p _ => some (p, 0x06)
  | .setEventMask p _ => some (p, 0x07)
  | .demand p _ _ => some (p, 0x10)
  | .cancelOrder p _ => some (p, 0x11)
  | .releaseOrder p _ => some (p, 0x12)
  | .pressHold p => some (p, 0x13)
  | .pressRun p => some (p, 0x14)
  | .loadBillet p _ _ => some (p, 0x20)
  | .unloadCradle p => some (p, 0x21)
  | .readPush p => some (p, 0x22)
  | .pushDone p _ => some (p, 0x23)
  | .pushFaultNotStarted p _ => some (p, 0x24)
  | .pushFaultIncomplete p _ => some (p, 0x24)
  | .start p => some (p, 0x30)
  | .stop p => some (p, 0x31)
  | .hold p => some (p, 0x32)
  | .resume p => some (p, 0x33)
  | .purge p => some (p, 0x34)
  | .abortPurge p => some (p, 0x35)
  | .drain p => some (p, 0x36)
  | .endDrain p => some (p, 0x37)
  | .resetFault p => some (p, 0x38)
  | .warmRestart p => some (p, 0x39)
  | .trackClear p => some (p, 0x40)
  | .declareSlots p _ _ => some (p, 0x41)
  | .markReject p _ _ => some (p, 0x42)
  | .clearSuspect p _ _ => some (p, 0x43)
  | .writeRecipe p _ _ _ => some (p, 0x50)
  | .deleteRecipe p _ => some (p, 0x51)
  | .readRecipe p _ => some (p, 0x52)
  | .setLearning p _ => some (p, 0x53)
  | .setLine p _ => some (p, 0x60)
  | .setReach p _ => some (p, 0x61)
  | .setTimers p _ => some (p, 0x62)
  | .setUrgencyMap p _ => some (p, 0x63)
  | .setLineLimit p _ => some (p, 0x64)
  | .setLineLimitLong p _ _ => some (p, 0x64)
  | .disableCoil p _ => some (p, 0x70)
  | .enableCoil p _ => some (p, 0x71)
  | .clearChannel p _ => some (p, 0x72)
  | .releaseLockout p _ => some (p, 0x73)
  | .readCoils p => some (p, 0x74)
  | .readChannels p => some (p, 0x75)
  | .readQueues p => some (p, 0x76)
  | .storeConfig p => some (p, 0x7F)
  | _ => none

/-- The port whose transaction a command is. -/
def transactionOn : Instr → Option Port
  | .requestTransaction p _ _ => some p
  | .fetch p _ => some p
  | c => (requestOf c).map Prod.fst

/-- The ports that may send a request (the table of R190). -/
def senders : Instr → List Port
  | .readLineStatus _ | .readTrack _ _ _ | .readTrackField _ _ _ _ | .readOrders _ | .readHistory _ _ | .ackEvents _ _
  | .setEventMask _ _ => [.press, .feeder, .supervisor]
  | .demand _ _ _ | .cancelOrder _ _ | .releaseOrder _ _ | .pressHold _ | .pressRun _ => [.press]
  | .loadBillet _ _ _ | .unloadCradle _ | .readPush _ | .pushDone _ _ | .pushFaultNotStarted _ _
  | .pushFaultIncomplete _ _ => [.feeder]
  | _ => [.supervisor]

/-- The payload of a request as R207 and R212 lay it out. -/
def payloadOf : Instr → List Byte
  | .readTrack _ first count => [byteOf first, byteOf count]
  | .readTrackField _ field first count => [byteOf field, byteOf first, byteOf count]
  | .readHistory _ age => [byteOf age]
  | .ackEvents _ kinds | .setEventMask _ kinds => kinds.map byteOf
  | .demand _ tag deadline => byteOf tag :: bigEndian 2 deadline
  | .cancelOrder _ slot | .releaseOrder _ slot => [byteOf slot]
  | .loadBillet _ id grade => bigEndian 4 id ++ bigEndian 2 grade
  | .pushDone _ number => [byteOf number]
  | .pushFaultNotStarted _ number => [byteOf number, 1]
  | .pushFaultIncomplete _ number => [byteOf number, 2]
  | .declareSlots _ first entries =>
    byteOf first :: entries.flatMap fun e =>
      match e with
      | .gap => List.replicate 7 0
      | .billet id grade => 1 :: bigEndian 4 id ++ bigEndian 2 grade
  | .markReject _ position id | .clearSuspect _ position id => byteOf position :: bigEndian 4 id
  | .writeRecipe _ index data keep => recipeBytes index data ++ [byteOf (codeOfFlag keep)]
  | .deleteRecipe _ index | .readRecipe _ index => [byteOf index]
  | .setLearning _ settings => learningBytes settings
  | .setLine _ g => lineBytes g
  | .setReach _ map => byteOf map.length :: map.map fun x => byteOf (x.inverter * 16 + x.coil)
  | .setTimers _ settings => timersBytes settings
  | .setUrgencyMap _ map => urgencyBytes map
  | .setLineLimit _ limit => bigEndian 2 limit
  | .setLineLimitLong _ limit settings => limitsBytes limit settings
  | .disableCoil _ coil | .enableCoil _ coil => [byteOf coil]
  | .clearChannel _ channel => [byteOf channel]
  | .releaseLockout _ name => [byteOf (name.inverter * 16 + name.coil)]
  | _ => []

/-- The request frame of R187: code, length, payload, CRC-8. -/
def frameOf (code : Byte) (c : Instr) : List Byte :=
  let head := code :: byteOf (payloadOf c).length :: payloadOf c
  head ++ [byteOf (crc8 head)]

/-! ## Words for the allocator -/

/-- 5% of a rating, rounded up to the next multiple of 10 kW (R49). -/
def fivePercent (kw : Nat) : Nat := (kw * 5 + 999) / 1000 * 10

/-- The value R62 counts for a channel. -/
def countedFor (c : Channel) : Nat :=
  match c.state with
  | .closing => c.grantSetpoint
  | .starting | .energized | .stopping => max c.accepted (c.commanded.getD 0)
  | .faulted .noStop => c.accepted
  | _ => 0

/-- The class of a coil by its lead billet under a map (R54), N being the number of positions. -/
def classUnder (u : UrgencyMap) (n : Nat) (l : Lead) : Nat :=
  let toExit := n - l.position
  let row := match l.group with
    | .heating => u.heating
    | .holding => u.holding
  if toExit ≤ u.b1 then row.band0 else if toExit ≤ u.b2 then row.band1 else if toExit ≤ u.b3 then row.band2
  else row.band3

/-- A crosspoint is usable while it exists and is neither FAIL_OPEN nor FAIL_CLOSED (R50). -/
def usableAt (s : State) (j : Nat) (u : Inv) : Bool :=
  match s.crosspoint u j with
  | some x => decide (x.state ≠ .failOpen) && decide (x.state ≠ .failClosed)
  | none => false

/-- Headroom (R63): the effective limit less committed power. -/
def headroomOf (s : State) : Nat := s.alloc.effective - (inverters.map fun u => countedFor (s.channels.get u)).sum

/-- The queues without a coil; the entries behind it keep their order (R58). -/
def leaving (q : Queues) (j : Nat) : Queues :=
  { q0 := q.q0.filter (· != j), q1 := q.q1.filter (· != j), q2 := q.q2.filter (· != j), q3 := q.q3.filter (· != j) }

/-- The queues with a coil at the tail of Q(k) (R55, R56). -/
def atTail (q : Queues) (k j : Nat) : Queues :=
  match k with
  | 0 => { q with q0 := q.q0 ++ [j] }
  | 1 => { q with q1 := q.q1 ++ [j] }
  | 2 => { q with q2 := q.q2 ++ [j] }
  | _ => { q with q3 := q.q3 ++ [j] }

/-- The state with a coil's state and the queues replaced. -/
def recoiled (s : State) (j : Nat) (c : CoilState) (q : Queues) : State :=
  { s with alloc := { s.alloc with coils := mod1 s.alloc.coils j fun x => { x with state := c }, queues := q } }

/-- The class by which a coil joins a queue, none when a joining condition fails (R56). -/
def joinsAs (s : State) (j : Nat) : Option Nat :=
  match s.coil j with
  | some { state := .unpowered, demand := d, lead := some l, .. } =>
    if s.line.mode.heating = true ∧ s.settings.limits.threshold ≤ d ∧ inverters.any (usableAt s j) = true then
      some (classUnder s.settings.urgency s.positions l)
    else none
  | _ => none

/-- A coil that meets the joining conditions joins the tail of the queue of its class (R56). -/
def joinedIf (s : State) (j : Nat) : State :=
  match joinsAs s j with
  | some k => recoiled s j (.queued k) (atTail s.alloc.queues k j)
  | none => s

/-- Every coil is tested, in descending coil number (R56). -/
def joinedAll (s : State) : State := (descending s.alloc.coils.length).foldl joinedIf s

/-- The coil a pass picks for an inverter (R60): the first, from Q3 down to Q0 and from head to tail, whose crosspoint to
it is usable, and whose column has no closed drive (log entry 15). -/
def pickedFor (s : State) (u : Inv) : Option Nat :=
  (s.alloc.queues.q3 ++ s.alloc.queues.q2 ++ s.alloc.queues.q1 ++ s.alloc.queues.q0).find? fun j =>
    usableAt s j u && !(s.matrix.any fun x => x.coil == j && x.drive)

/-- The state after a grant of Cj to Ui (R61, R78, R94). -/
def granted (s : State) (u : Inv) (j : Nat) : State :=
  let s1 := recoiled s j (.assigned u) (leaving s.alloc.queues j)
  { s1 with
    alloc := { s1.alloc with
      grants := s.alloc.grants.set u (some { coil := j, number := s.alloc.grantCounter, released := false })
      grantCounter := if s.alloc.grantCounter = 4294967295 then 1 else s.alloc.grantCounter + 1 }
    channels := s.channels.set u { s.channels.get u with
      state := .closing, coil := some j, rejects := 0, release := false
      grantSetpoint := min (min (s.inverterRating u) (s.coilRating j)) (headroomOf s) }
    matrix := s.matrix.map fun x =>
      if x.inverter = u ∧ x.coil = j then
        { x with drive := true, state := .closing, timer := .running s.settings.timers.feedbackTimeout }
      else x
    link := { s.link with pollDue := s.link.pollDue.set u false } }

/-- A pass offers a channel a coil: an IDLE one, its minimum setpoint within the headroom (R59, R60). -/
def offered (s : State) (u : Inv) : State :=
  if (s.channels.get u).state = .idle ∧ fivePercent (s.inverterRating u) ≤ headroomOf s then
    match pickedFor s u with
    | some j => granted s u j
    | none => s
  else s

/-- The state after an allocation pass (R59): U1 to U4 in ascending number, in RUN, HOLD or DRAIN, on a verified track, with
no pending limit. -/
def afterPass (s : State) : State :=
  if s.line.mode.heating = true ∧ s.track.verified = true ∧ s.alloc.pendingLimit = none then
    [Inv.u1, .u2, .u3, .u4].foldl offered s
  else s

/-- The allocator, the channels, the crosspoints and the link of `t` are those of `p`. -/
def AllocatesAs (t p : State) : Prop :=
  t.alloc = p.alloc ∧ t.channels = p.channels ∧ t.matrix = p.matrix ∧ t.link = p.link

/-- What a report does to the coil it is about (R56, R57, R58); to an assigned coil whose demand is not 0, nothing. -/
def actedOn (s : State) (j : Nat) : State :=
  match s.coil j with
  | some { state := .queued k, demand := d, lead := l, .. } =>
    if d = 0 then recoiled s j .unpowered (leaving s.alloc.queues j)
    else
      (match l.map (classUnder s.settings.urgency s.positions) with
        | some c => if c = k then s else recoiled s j (.queued c) (atTail (leaving s.alloc.queues j) c j)
        | none => s)
  | some { state := .unpowered, .. } => joinedIf s j
  | _ => s

/-- A coil's values differ from those last reported (R28). -/
def differs (s : State) (j : Nat) : Bool :=
  match s.coil j with
  | some c => decide (c.demand ≠ s.coilDemand j) || decide (c.lead ≠ s.coilLead j)
  | none => false

/-- The state once every coil that differs is reported: the allocator holds the track's values and has acted on the reports
in descending coil number (R28, R53, R56, R57). -/
def afterReports (s : State) : State :=
  ((descending s.alloc.coils.length).filter (differs s)).foldl actedOn
    { s with
      alloc := { s.alloc with
        coils := mapNumbered (fun j c => { c with demand := s.coilDemand j, lead := s.coilLead j }) 1 s.alloc.coils } }

/-- A coil that was UNPOWERED in `s` is QUEUED in `r`. -/
def someJoined (s r : State) : Bool :=
  (descending s.alloc.coils.length).any fun j =>
    match s.coil j, r.coil j with
    | some { state := .unpowered, .. }, some { state := .queued _, .. } => true
    | _, _ => false

/-! ## Words for the supply indicator -/

/-- A READY billet stands in the slot. -/
def readyIn : Slot → Bool
  | .billet { thermal := .ready _, .. } => true
  | _ => false

/-- A READY billet without a mark stands in the slot (R161). -/
def countsIn : Slot → Bool
  | .billet { thermal := .ready _, suspect := none, reject := false, .. } => true
  | _ => false

/-- The supply count (R161): the READY billets without a mark in the last M positions, 0 while the track is unverified. -/
def supplyIn (s : State) : Nat :=
  if s.track.verified = true then
    ((s.track.slots.drop (s.track.slots.length - s.settings.limits.window)).filter countsIn).length
  else 0

/-- The indicator by the mode and the count (the table of R162), `old` being its value before. -/
def indicatorIn (s : State) (old : Supply) : Supply :=
  if s.line.mode = .run ∨ s.line.mode = .drain then
    (if supplyIn s < s.settings.limits.lowMark then .short
      else if s.settings.limits.highMark ≤ supplyIn s then .ok
      else old)
  else .short

/-! ## Invariants -/

/-- A rating: 50 to 2000 kW in steps of 10 kW (R49). -/
def RatingOk (kw : Nat) : Prop := 50 ≤ kw ∧ kw ≤ 2000 ∧ kw % 10 = 0

/-- The range check of SET_LINE (R49, R201). -/
def GeometryOk (g : Geometry) : Prop :=
  8 ≤ g.positions ∧ g.positions ≤ 32 ∧ 1 ≤ g.coils.length ∧ g.coils.length ≤ 12 ∧ 1 ≤ g.ratings.length ∧
    g.ratings.length ≤ 4 ∧
    (∀ c ∈ g.coils, 1 ≤ c.first ∧ c.first ≤ c.last ∧ c.last ≤ g.positions ∧ RatingOk c.rating) ∧
    g.coils.Pairwise (fun a b => a.last < b.first) ∧ ∀ r ∈ g.ratings, RatingOk r

/-- A geometry in force meets the range check of SET_LINE, whichever way it came (R49, R198, R201). -/
def GeometryLawful (s : State) : Prop := ∀ g, s.track.geometry = some g → GeometryOk g

/-- The items of the line mode controller agree with the mode: the restart mark is set in STOPPING(STANDBY) alone (R181,
R182), the hold-limit timer runs in HOLD alone (R174), fault causes are held in FAULT_STOP alone (R177, R179); while
LINE_STOP is asserted the line is in LOADING, UNCONFIGURED or FAULT_STOP, there with the cause LINE_STOP (R178). -/
def LineItems (s : State) : Prop :=
  (s.line.restartMark = true → s.line.mode = .stopping .standby) ∧
    (s.line.holdTimer ≠ .stopped → ∃ r, s.line.mode = .hold r) ∧
    (s.line.stopCauses ≠ StopCauses.none → s.line.mode = .faultStop) ∧
    (s.lines.lineStop = true →
      s.line.mode.noLine = true ∨ (s.line.mode = .faultStop ∧ s.line.stopCauses.lineStop = true))

/-- While the load reads, the line is in LOADING and every block is as the hardware reset left it (R180, R198); the line
is in LOADING then alone. -/
def BeforeLoad (s : State) : Prop :=
  (s.loader.load = .reading ↔ s.line.mode = .loading) ∧
    (s.line.mode = .loading →
      s.track = { TrackMgr.reset with lineSecond := s.track.lineSecond } ∧ s.recipes = RecipeTable.reset ∧
        s.alloc = Allocator.reset ∧ s.channels = PerInv.all Channel.reset ∧ s.matrix = [] ∧ s.link = Link.reset ∧
        s.push = PushCtl.reset ∧ s.orders = OrderMgr.reset ∧ s.settings = Settings.default)

/-- A channel state in which a drive of the channel's row is closed (R76). -/
def holdsDrive : ChannelState → Bool
  | .closing | .starting | .energized | .stopping | .faulted .noStop => true
  | _ => false

/-- R92: a drive is closed exactly in CLOSING and CLOSED; a closed drive is that of its channel's assigned coil, and the
channel is in a state that holds a drive; each crosspoint has one record; no column has two closed drives; a closed drive
of a channel in FAULTED(NO_STOP) is found in FAULT_STOP alone, and none in LOADING or UNCONFIGURED. -/
def DrivesLawful (s : State) : Prop :=
  (s.matrix.map fun x => (x.inverter, x.coil)).Nodup ∧
    (∀ x ∈ s.matrix, x.drive = true ↔ x.state = .closing ∨ x.state = .closed) ∧
    (∀ x ∈ s.matrix, x.drive = true →
      (s.channels.get x.inverter).coil = some x.coil ∧ holdsDrive (s.channels.get x.inverter).state = true ∧
        ((s.channels.get x.inverter).state = .faulted .noStop → s.line.mode = .faultStop) ∧
        s.line.mode.noLine = false) ∧
    (∀ x ∈ s.matrix, ∀ y ∈ s.matrix, x.drive = true → y.drive = true → x.coil = y.coil → x.inverter = y.inverter) ∧
    (s.loader.load = .reading → s.line.mode = .loading ∧ s.matrix = [])

/-- R55: a coil stands in Q(c) exactly while its state is QUEUED(c), and once; classes are 0 to 3; outside RUN, HOLD and
DRAIN no coil is QUEUED. -/
def QueuesLawful (s : State) : Prop :=
  (∀ k ≤ 3, (s.alloc.queues.get k).Nodup ∧
    ∀ j, j ∈ s.alloc.queues.get k ↔ (s.coil j).map Coil.state = some (.queued k)) ∧
    (∀ j k, (s.coil j).map Coil.state = some (.queued k) → k ≤ 3 ∧ s.line.mode.heating = true) ∧
    bandsOk s.settings.urgency.heating = true ∧ bandsOk s.settings.urgency.holding = true ∧
    (s.loader.load = .reading → s.line.mode = .loading)

/-- The status byte of a transaction in progress shows in bits 1..0 the port state by which its FETCH acts, in bit 3 OVERRUN, which
no other command of the port comes to change, and in bits 5..4 the port (R186, R188, R191). -/
def SelectLawful (s : State) : Prop :=
  ∀ p status start, (s.ports.get p).select = .selected status start →
    status.extractLsb' 0 2 = (match start with
      | .idle => 0#2
      | .processing _ => 1#2
      | .ready _ => 2#2) ∧
    status.getLsbD 3 = (s.ports.get p).overrun ∧
    status.extractLsb' 4 2 = (match p with
      | .press => 1#2
      | .feeder => 2#2
      | .supervisor => 3#2)

/-- A coil stands in a queue only while it is QUEUED. -/
def QueuedOnly (s : State) (j : Nat) (c : Coil) : Prop := ∀ k ≤ 3, j ∈ s.alloc.queues.get k → ∃ d, c.state = .queued d

/-- A coil that stood in a queue only if it was QUEUED, as QueuesLawful has it, is LOCKED afterwards. -/
def BecomesLocked (s t : State) (j : Nat) : Prop :=
  ∀ c y, s.coil j = some c → QueuedOnly s j c → t.coil j = some y → y.state = .locked

end Sys2Proof.Stated

open Sys2Proof.Stated

/-! ## The block as a whole -/

/-- A step runs the command at the front of the queue on the state with the queue's rest; on an empty queue the block idles
(the model's choice, log entry 1). -/
def Obligations.StepTakesFrontCommand : Prop :=
  (∀ (s : State) (c : Instr) (rest : List Instr), s.pending = c :: rest → step s = exec c { s with pending := rest }) ∧
    ∀ s : State, s.pending = [] → step s = .next s

/-- No command stops the block, and none touches the queue of waiting commands. -/
def Obligations.EveryCommandCompletes : Prop :=
  ∀ (c : Instr) (s : State), ∃ t, exec c s = .next t ∧ t.pending = s.pending

namespace Sys2Proof.Stated

/-- The commands that put a whole configuration in force or bring a request frame as bytes. -/
def wide : Instr → Bool
  | .hardwareReset _ | .imageApplied | .requestTransaction _ _ _ => true
  | _ => false

/-- The other commands that may change the recipe table. -/
def writesRecipes : Instr → Bool
  | .setLine _ _ | .writeRecipe _ _ _ _ | .deleteRecipe _ _ | .setLearning _ _ | .storeCompleteOk
  | .pyrometerReading _ _ | .pyrometerBadFrame _ => true
  | _ => false

/-- The other commands that may change the settings. -/
def writesSettings : Instr → Bool
  | .setTimers _ _ | .setUrgencyMap _ _ | .setLineLimitLong _ _ _ => true
  | _ => false

/-- The other commands that may change the load state, the store state, the EEPROM or the result. -/
def writesLoader : Instr → Bool
  | .storeConfig _ | .storeCompleteOk | .storeNoAck _ | .loadFailed _ => true
  | _ => false

/-- The other command that may change the geometry. -/
def writesGeometry : Instr → Bool
  | .setLine _ _ => true
  | _ => false

/-- The reads, which take free numbers. -/
def takesFree : Instr → Bool
  | .readLineStatus _ | .readOrders _ | .readPush _ | .readQueues _ | .requestTransaction _ _ _ => true
  | _ => false

/-- The commands that bring pyrometer characters, and the reset. -/
def movesPyro : Instr → Bool
  | .pyrometerReading _ _ | .pyrometerBadFrame _ | .pyrometerCharacterGap | .hardwareReset _ => true
  | _ => false

/-- The commands that bring a level of the LINE_STOP input. -/
def movesLineStop : Instr → Bool
  | .lineStopAsserted | .lineStopDeasserted => true
  | _ => false

/-- The commands that bring a level of a feedback input. -/
def movesFeedback : Instr → Bool
  | .feedbackClosed _ _ | .feedbackOpen _ _ => true
  | _ => false

end Sys2Proof.Stated

/-- What only its own commands change: the recipe table, the settings, the loader with the EEPROM, the geometry, the input levels,
the frame in reception, and the model's counter of free values; and of a port OVERRUN, what it shifted out, and its chip select
with the status byte taken at the assertion, which no command but the port's own transactions and the hardware reset alters. -/
def Obligations.ConfigurationChangesByItsCommandsAlone : Prop :=
  ∀ (c : Instr) (s t : State), exec c s = .next t →
    (wide c = false → writesRecipes c = false → t.recipes = s.recipes) ∧
    (wide c = false → writesSettings c = false → t.settings = s.settings) ∧
    (wide c = false → writesLoader c = false → t.loader = s.loader) ∧
    (wide c = false → writesGeometry c = false → t.track.geometry = s.track.geometry) ∧
    (takesFree c = false → t.free = s.free) ∧
    (movesPyro c = false → t.lines.pyro = s.lines.pyro) ∧
    (movesLineStop c = false → t.lines.lineStop = s.lines.lineStop) ∧
    (movesFeedback c = false → t.lines.feedback = s.lines.feedback) ∧
    ∀ p, transactionOn c ≠ some p → (∀ n, c ≠ .hardwareReset n) →
      (t.ports.get p).overrun = (s.ports.get p).overrun ∧ (t.ports.get p).shifted = (s.ports.get p).shifted ∧
        (t.ports.get p).select = (s.ports.get p).select

/-- HARDWARE_RESET: every block at its hardware-reset values, the pyrometer receiver hunting; a transaction in progress is ignored up to its end; the input levels and the EEPROM, which lie outside the part,
are kept, a store that it interrupts leaving the writes made so far, never the last one (log entries 8 to 10). -/
def Obligations.HardwareResetLeavesResetValues : Prop :=
  ∀ (s : State) (n : Nat), ∃ t, exec (.hardwareReset n) s = .next t ∧
    t.line = {
      mode := .loading, holdCauses := ⟨false, false, false⟩, holdTimer := .stopped,
      stopCauses := ⟨false, false, false, false, false⟩, restartMark := false } ∧
    t.track = {
      geometry := none, slots := [], verified := false, cradle := none, chargeCounter := 1,
      unattributed := [], lineSecond := .running 1 } ∧
    t.recipes = {
      entries := List.replicate 48 Recipe.empty,
      learning := { on := false, step := 5, deadBand := 10, limit := 80 } } ∧
    t.alloc = {
      coils := [], queues := ⟨[], [], [], []⟩, grants := PerInv.all none, grantCounter := 1, effective := 0,
      pendingLimit := none, slice := PerInv.all .stopped } ∧
    (∀ u, t.channels.get u = {
      state := .absent, pendingCause := none, pendingWelded := false, coil := none,
      grantSetpoint := 0, accepted := 0, commanded := none, deferred := none, release := false, lastOutput := none,
      faultCode := none, power := 0, baseline := none, timeouts := 0, rejects := 0, clearing := false,
      stopConfirm := .stopped, retry := none, sent := false, timedOut := false, lateCause := none }) ∧
    t.matrix = [] ∧
    t.link = {
      queue := [], inFlight := none, quiet := .stopped, pollTimer := .stopped, pollDue := PerInv.all false,
      pointer := 0, startMark := PerInv.all true, held := PerInv.all none, holdback := PerInv.all .stopped,
      discovery := PerInv.all .none, rounds := [], driver := false } ∧
    t.push = {
      record := none, counter := 1, late := 0, timer := .stopped, cradleWait := false, station := none,
      measureTimer := .stopped, history := [], classCount := 0 } ∧
    t.orders = { a := .free, b := .free, supply := .short, silence := .stopped } ∧
    t.settings = {
      timers := {
        slice := 20, pollPeriod := 200, replyTimeout := 20, bitRate := .kbit115,
        lostThreshold := 3, rejectLimit := 4, retryDelay := 100, stopConfirm := 2000, feedbackTimeout := 150,
        pushTimeout := 10, measureTimeout := 500, pressSilence := 3000, holdLimit := 30 },
      urgency := { heating := ⟨3, 2, 1, 1⟩, holding := ⟨2, 0, 0, 0⟩, b1 := 2, b2 := 5, b3 := 9 },
      limits := { threshold := 50, window := 3, lowMark := 1, highMark := 2, autoPurge := false, policy := .divert } } ∧
    (∀ p, (t.ports.get p).state = .idle ∧ (t.ports.get p).overrun = false ∧ (t.ports.get p).attn = false ∧
      (t.ports.get p).select = (if (s.ports.get p).select = .released then .released else .ignored) ∧
      ∀ k, (t.ports.get p).flags.has k = false ∧ (t.ports.get p).mask.has k = false) ∧
    t.lines.divert = true ∧ t.lines.pyro = [] ∧ t.lines.lineStop = s.lines.lineStop ∧
    t.lines.feedback = s.lines.feedback ∧ t.loader.load = .reading ∧ t.loader.store = .idle ∧ t.loader.result = .none ∧
    (s.loader.store = .idle → t.loader.eeprom = s.loader.eeprom) ∧
    (∀ image, s.loader.store = .writing image →
      t.loader.eeprom = afterWrites image (min n ((storeWrites image).length - 1)) s.loader.eeprom)

/-- The invariants below hold in the state after reset (the model's reset values: log entries 8, 10). -/
def Obligations.InvariantsHoldAtReset : Prop :=
  Memory.wf State.reset.loader.eeprom = true ∧ LineItems State.reset ∧ BeforeLoad State.reset ∧
    DrivesLawful State.reset ∧ QueuesLawful State.reset ∧ GeometryLawful State.reset ∧ SelectLawful State.reset

/-- Every step keeps the EEPROM's contents in their canonical form (the list of cells and its form are the model's own
representation: log entry 8), and with it a geometry in force that meets the range check of SET_LINE. -/
def Obligations.EepromStaysCanonical : Prop :=
  (∀ s t : State, Memory.wf s.loader.eeprom = true → step s = .next t → Memory.wf t.loader.eeprom = true) ∧
    ∀ s t : State, GeometryLawful s → step s = .next t → GeometryLawful t

/-- Every step keeps the items of the line mode controller in agreement with the mode. -/
def Obligations.LineItemsFollowTheMode : Prop :=
  ∀ s t : State, LineItems s → BeforeLoad s → step s = .next t → LineItems t ∧ BeforeLoad t

/-- Every step keeps the law of R92: no inverter and no coil has more than one closed drive. -/
def Obligations.DrivesStayLawful : Prop :=
  (∀ s t : State, DrivesLawful s → step s = .next t → DrivesLawful t) ∧
    ∀ s : State, DrivesLawful s → ∀ x ∈ s.matrix, ∀ y ∈ s.matrix, x.drive = true → y.drive = true →
      (x.inverter = y.inverter ∨ x.coil = y.coil) → x = y

/-- Every step keeps the request queues in agreement with the coil states. -/
def Obligations.QueuesMatchCoilStates : Prop :=
  ∀ s t : State, QueuesLawful s → step s = .next t → QueuesLawful t

/-- A well-formed request sent as the frame R187 and R207 lay out has exactly the effect of its row. (That a request row stands
for a frame that passes its check, with a length its request takes, is log entry 5.) -/
def Obligations.RequestFramesDecode : Prop :=
  ∀ (c : Instr) (p : Port) (code : Byte) (s : State), requestOf c = some (p, code) → c.wf = true →
    exec (.requestTransaction p (frameOf code c)) s = exec c s

/-! ## The ports -/

/-- A refused request changes no state beyond the port's held response (and what every transaction does: the status byte
and the press silence timer). -/
def Obligations.RefusedRequestChangesNothing : Prop :=
  ∀ (c : Instr) (s t : State) (p : Port) (code code' : Byte) (r : Reason), requestOf c = some (p, code) → Idle s p →
    exec c s = .next t → (t.ports.get p).state = .ready { code := code', body := .refused r } → t = refused s p code r

/-- A request transaction on a port that is not IDLE is discarded and sets OVERRUN; a FETCH that shifts a status
byte (log entry 7) clears it after shifting it out, set if it was set: every step keeps, in the status byte of a transaction in
progress, bit 3 equal to OVERRUN, bits 1..0 to the port state by which its FETCH acts, and bits 5..4 to the port. -/
def Obligations.BusyPortOverruns : Prop :=
  (∀ (c : Instr) (s : State) (p : Port) (code : Byte), requestOf c = some (p, code) → Busy s p →
    exec c s = .next { s with
      ports := s.ports.set p { shiftedOut s p none with overrun := true }, orders := ordersHeard s p }) ∧
  (∀ (s : State) (p : Port) (bytes : List Byte), Busy s p →
    exec (.requestTransaction p bytes) s = .next { s with
      ports := s.ports.set p { shiftedOut s p none with overrun := true }
      orders := if frameOk bytes then ordersHeard s p else s.orders }) ∧
  (∀ (s : State) (p : Port) (e : FetchExtent), e ≠ .noStatus → Heeded s p → SelectLawful s →
    ∃ t, exec (.fetch p e) s = .next t ∧ (t.ports.get p).overrun = false ∧
      ∃ out : Shifted, (t.ports.get p).shifted = some out ∧ out.status = (taken s p).1 ∧
        out.status.getLsbD 3 = (s.ports.get p).overrun) ∧
  ∀ s t : State, SelectLawful s → step s = .next t → SelectLawful t

namespace Sys2Proof.Stated

/-- The lengths each request takes (the table of R207), by its code and its payload. -/
def LengthTaken (code : Byte) (p : List Byte) : Prop :=
  match code.toNat with
  | 0x02 | 0x24 => p.length = 2
  | 0x03 | 0x10 => p.length = 3
  | 0x05 | 0x11 | 0x12 | 0x23 | 0x51 | 0x52 | 0x70 | 0x71 | 0x72 | 0x73 => p.length = 1
  | 0x06 | 0x07 => p.length ≤ 16
  | 0x20 => p.length = 6
  | 0x41 => ∃ k, 1 ≤ k ∧ k ≤ 7 ∧ p.length = 1 + 7 * k
  | 0x42 | 0x43 => p.length = 5
  | 0x50 => p.length = 31
  | 0x53 => p.length = 4
  | 0x60 => ∃ n m : Byte, p[1]? = some n ∧ p[2 + 3 * n.toNat]? = some m ∧ p.length = 3 + 3 * n.toNat + m.toNat
  | 0x61 => ∃ k : Byte, p[0]? = some k ∧ p.length = 1 + k.toNat
  | 0x62 => p.length = 19
  | 0x63 => p.length = 11
  | 0x64 => p.length = 2 ∨ p.length = 9
  | _ => p.length = 0

end Sys2Proof.Stated

/-- A request outside its port's role is refused NOT_PERMITTED, whatever the mode; the frame check of R187, and what an IDLE port
answers to a frame that fails it, whose code names no request, or whose length its request does not take; a frame that passes
it, and a FETCH, restart the press silence timer on the press port. -/
def Obligations.PortChecksRefuse : Prop :=
  (∀ (c : Instr) (s : State) (p : Port) (code : Byte), requestOf c = some (p, code) → Idle s p → p ∉ senders c →
      exec c s = .next (refused s p code .notPermitted)) ∧
  ((∀ bytes : List Byte, frameOk bytes = true ↔
      ∃ (code len crc : Byte) (payload : List Byte), bytes = code :: len :: payload ++ [crc] ∧
        len.toNat = payload.length ∧ payload.length ≤ 56 ∧ crc.toNat = crc8 (code :: len :: payload)) ∧
    (∀ (s : State) (p : Port) (bytes : List Byte), Idle s p → frameOk bytes = false →
      exec (.requestTransaction p bytes) s =
        .next { refused s p (bytes.head?.getD 0) .badFrame with orders := s.orders }) ∧
    (∀ (s : State) (p : Port) (code : Byte) (rest : List Byte), Idle s p → frameOk (code :: rest) = true →
      (∀ c q, requestOf c ≠ some (q, code)) →
      exec (.requestTransaction p (code :: rest)) s = .next (refused s p code .unknownRequest)) ∧
    (∀ (s : State) (p : Port) (code len crc : Byte) (payload : List Byte) (c : Instr), Idle s p →
      frameOk (code :: len :: payload ++ [crc]) = true → requestOf c = some (p, code) → p ∈ senders c →
      ¬ LengthTaken code payload →
      exec (.requestTransaction p (code :: len :: payload ++ [crc])) s = .next (refused s p code .badLength)) ∧
    ∀ (s : State) (e : FetchExtent), e ≠ .noStatus → Heeded s .press → ∃ t, exec (.fetch .press e) s = .next t ∧
      t.orders = ordersHeard s .press)

/-- The assertion of chip select takes the status byte and the port state; a transaction shifts out that byte, whatever has changed
since, and a FETCH acts by that state. FETCH by the state at its start and its extent (log entry 7): what is shifted out, and
the port afterwards, an answer that came during it being left held (log entry 46). A transaction by its selector: FETCH, a status read, which shifts out the status byte and changes nothing
else, or one that is not taken, as is every transaction whose chip select was asserted before a hardware reset ended. The
response frame of each kind (the bytes of a DATA payload are log entry 6's). The bytes of a transaction: the status byte, the
response frame of a FETCH, and the filler after it. -/
def Obligations.FetchShiftsTheHeldResponse : Prop :=
  ∀ (s : State) (p : Port),
    let rec' := s.ports.get p
    let start := (taken s p).2
    let after (st : PortState) (out : ShiftedResponse) : State :=
      { s with
        ports := s.ports.set p { shiftedOut s p (some out) with state := st, overrun := false }
        orders := ordersHeard s p }
    (∀ bytes, exec (.requestTransaction p bytes .asserted) s = .next
      (if rec'.select = .released then
        { s with ports := s.ports.set p { rec' with select := .selected (rec'.statusByte p) rec'.state } }
      else s)) ∧
    exec (.fetch p .noStatus) s = .next (deasserted s p) ∧
    (Heeded s p →
      (∀ e, e ≠ .noStatus → start = .idle → exec (.fetch p e) s = .next (after rec'.state (.none 0))) ∧
      (∀ e code, e ≠ .noStatus → start = .processing code →
        exec (.fetch p e) s = .next (after rec'.state (.none code))) ∧
      (∀ r, start = .ready r →
        exec (.fetch p .whole) s = .next (after .idle (.held r)) ∧
          exec (.fetch p .partly) s = .next (after rec'.state (.held r)))) ∧
    (∀ bytes, exec (.requestTransaction p bytes .unfinished) s = .next (deasserted s p) ∧
      exec (.requestTransaction p bytes .beforeReset) s = .next (deasserted s p) ∧
      (∀ b : Byte, b ≠ 0xA5 → b ≠ 0xC3 → Heeded s p → exec (.requestTransaction p bytes (.selector b)) s =
        .next { s with ports := s.ports.set p (shiftedOut s p none) }) ∧
      exec (.requestTransaction p bytes (.selector 0xC3)) s =
        exec (.fetch p (if (responseFrame start.toFetch).length ≤ bytes.length then .whole else .partly)) s) ∧
    (¬ Heeded s p →
      (∀ c code, requestOf c = some (p, code) → exec c s = .next (deasserted s p)) ∧
      (∀ e, exec (.fetch p e) s = .next (deasserted s p)) ∧
      ∀ bytes b, exec (.requestTransaction p bytes (.selector b)) s = .next (deasserted s p)) ∧
    (∀ (code : Byte) (reason : Reason) (x : Payload) (r : ShiftedResponse),
      responseBody (.none code) = [0x00, code] ∧
      responseBody (.held { code := code, body := .accepted }) = [0x01, code] ∧
      responseBody (.held { code := code, body := .refused reason }) = [0x02, code, byteOf (reasonCode reason)] ∧
      (∃ p1 p0 : Byte, responseBody (.held { code := code, body := .data x }) = 0x03 :: code :: p1 :: p0 :: x.bytes ∧
        (x.bytes.length ≤ 1023 → p1.toNat * 256 + p0.toNat = x.bytes.length)) ∧
      responseFrame r = responseBody r ++ [byteOf (crc8 (responseBody r))]) ∧
    ∀ (out : Shifted) (n k : Nat), (out.bytes n).length = n ∧
      (0 < n → (out.bytes n)[0]? = some out.status) ∧
      (∀ r, out.response = some r → k < (responseFrame r).length → k + 1 < n →
        (out.bytes n)[k + 1]? = (responseFrame r)[k]?) ∧
      ((∀ r, out.response = some r → (responseFrame r).length < k) → 0 < k → k < n →
        (out.bytes n)[k]? = some 0xFF)

/-! ## Quantities the manual derives -/

namespace Sys2Proof.Stated

/-- The demand of what stands at a position (R26). -/
def demandAt (s : State) (p : Nat) : Nat :=
  match at1 s.track.slots p with
  | some (.billet b) =>
    let overheld := match b.thermal with
      | .overheld _ => true
      | _ => false
    if s.track.verified = false ∨ b.suspect ≠ none ∨ b.reject = true ∨ overheld = true ∨ s.coilOf p = 0 then 0
    else
      b.target.getD 0 * (at1 (s.recipeOf b).fractions (s.coilOf p)).getD 0 / 100 + b.loss - b.delivered
  | _ => 0

/-- The positions 1 to N that a coil covers, entrance first. -/
def positionsOf (s : State) (c : CoilRange) : List Nat :=
  ((List.range s.track.slots.length).map (· + 1)).filter fun p => decide (c.first ≤ p) && decide (p ≤ c.last)

/-- The group of the billet at a position (R27). -/
def groupAt (s : State) (p : Nat) : Group :=
  match at1 s.track.slots p with
  | some (.billet b) =>
    (match b.thermal with
      | .heating => .heating
      | _ => .holding)
  | _ => .holding

/-- The share of the billet at position p of d kJ handed to coil Cj (R23): d divided by the number of billets, and 1 kJ
more for each of the billets nearest the exit. -/
def shareOf (s : State) (j d p : Nat) : Nat :=
  let bs := s.coilBillets j
  d / bs.length + if (bs.filter fun b => decide (p < b.1)).length < d % bs.length then 1 else 0

end Sys2Proof.Stated

/-- Coil demand and lead billet: the sum of the billets' demands over the coil's positions; the exit-most billet with a
demand, and its group. At a line second the allocator takes the new values of every coil that differs and acts on the reports
in descending coil number: joins, class changes, departures, with an allocation pass after a joining; an ENERGIZED channel's
grant of a coil whose demand falls to 0 is released, and the coil, which stands in no queue, stays ASSIGNED. (That joins and moves are taken in one order is log entry 12's, a queued
coil with a closed drive in its column log entry 15's.) -/
def Obligations.CoilDemandAndLead : Prop :=
  (∀ (s : State) (j : Nat) (c : CoilRange), s.coilRange j = some c →
    s.coilDemand j = ((positionsOf s c).map (demandAt s)).sum ∧
    s.coilLead j = (((positionsOf s c).filter fun p => decide (0 < demandAt s p)).getLast?).map fun p =>
      { position := p, group := groupAt s p }) ∧
  ∀ s : State, s.track.lineSecond ≠ .stopped → s.track.verified = true →
    ∃ t, exec .lineSecond s = .next t ∧
      (∀ j c, s.coil j = some c → ∃ y, t.coil j = some y ∧ y.demand = t.coilDemand j ∧ y.lead = t.coilLead j ∧
        y.disable = c.disable) ∧
      (∀ j c u g, s.coil j = some c → c.state = .assigned u → QueuedOnly s j c → c.demand ≠ 0 → t.coilDemand j = 0 →
        (s.channels.get u).state = .energized → s.alloc.grants.get u = some g →
        t.alloc.grants.get u = some { g with released := true } ∧
          (t.coil j).map Coil.state = some (.assigned u)) ∧
      ((∀ j c u, s.coil j = some c → c.state = .assigned u → t.coilDemand j ≠ 0) →
        let r := afterReports { s with track := t.track }
        AllocatesAs t (if someJoined s r then afterPass r else r))

namespace Sys2Proof.Stated

/-- The thermal state and the accrued loss of a billet whose delivered energy becomes d (R15): a HEATING billet at its
effective target becomes SOAKING, or READY with soak time 0, its accrued loss 0. -/
def reaching (b : Billet) (soak d : Nat) : Thermal × Nat :=
  match b.thermal, b.target with
  | .heating, some target =>
    if target ≤ d then (if 0 < soak then .soaking soak else .ready 0, 0) else (.heating, b.loss)
  | x, _ => (x, b.loss)

end Sys2Proof.Stated

/-- An energy difference is shared exactly: the shares of the coil's billets sum to it, each billet of the coil receives its
share up to 1 000 000 kJ, a HEATING billet that reaches its effective target by it becomes SOAKING or READY, and every other
slot is unchanged. -/
def Obligations.EnergyIsSharedExactly : Prop :=
  ∀ (s : State) (j d : Nat) (c : CoilRange), s.coilRange j = some c → s.coilBillets j ≠ [] →
    ((s.coilBillets j).map fun b => shareOf s j d b.1).sum = d ∧
    (s.shareEnergy j d).length = s.track.slots.length ∧
    ∀ p x, at1 s.track.slots p = some x → ∃ y, at1 (s.shareEnergy j d) p = some y ∧
      (∀ b, x = .billet b → c.first ≤ p → p ≤ c.last →
        ∃ b', y = .billet b' ∧ b'.delivered = min 1000000 (b.delivered + shareOf s j d p) ∧
          (b'.thermal, b'.loss) = reaching b (s.recipeOf b).soak b'.delivered ∧ b'.id = b.id ∧
          b'.charge = b.charge ∧ b'.target = b.target ∧ b'.suspect = b.suspect ∧ b'.reject = b.reject) ∧
      ((∀ b, x ≠ .billet b) ∨ p < c.first ∨ c.last < p → y = x)

/-! ## Reads -/

/-- READ_HISTORY: the entries of the named age and the next two older ages, newest first; the read changes nothing. -/
def Obligations.HistoryRead : Prop :=
  ∀ (s : State) (p : Port) (age : Nat), Idle s p →
    (15 < age → exec (.readHistory p age) s = .next (refused s p 0x05 .outOfRange)) ∧
    (age ≤ 15 → s.line.mode = .loading → exec (.readHistory p age) s = .next (refused s p 0x05 .wrongMode)) ∧
    (age ≤ 15 → s.line.mode ≠ .loading → exec (.readHistory p age) s = .next (answered s p 0x05 (.data
      (.history s.push.history.length s.push.classCount ((s.push.history.reverse.drop age).take 3)))))

/-- READ_LINE_STATUS, READ_TRACK, READ_TRACK_FIELD, READ_ORDERS with the supply count of the front window, and READ_PUSH, with
their refusals; a time remaining is a free
value within its timer's duration (log entry 2). -/
def Obligations.StatusTrackOrderAndPushReads : Prop :=
  ((∀ (s : State) (p : Port), Idle s p → ∃ r ≤ bound s.line.holdTimer,
      exec (.readLineStatus p) s = .next (answered { s with free := s.free + 1 } p 0x01 (.data (.lineStatus
        { mode := s.line.mode, restartMark := s.line.restartMark, holdCauses := s.line.holdCauses, holdRemaining := r
          autoPurge := s.settings.limits.autoPurge, stopCauses := s.line.stopCauses, lineStop := s.lines.lineStop
          divert := s.lines.divert, verified := s.track.verified
          billets := (s.track.slots.filter Slot.isBillet).length, cradleHolds := s.track.cradle.isSome
          chargeCounter := s.track.chargeCounter
          pushNumber := match s.push.record with
            | some x => x.number
            | none => 0
          idle := (inverters.filter fun u => (s.channels.get u).state == .idle).length
          working := (inverters.filter fun u => (s.channels.get u).state.working).length
          faulted := (inverters.filter fun u => (s.channels.get u).state.isFaulted).length
          unreached := (inverters.filter fun u => (s.channels.get u).state == .unreached).length
          locked := (inverters.filter fun u => (s.channels.get u).state.isLocked).length })))) ∧
    (∀ (s : State) (p : Port) (field first count : Nat) (g : Geometry), Idle s p → s.track.geometry = some g →
      s.track.slots.length = g.positions → 1 ≤ first → 1 ≤ count → first + count ≤ g.positions + 1 →
      s.line.mode ≠ .loading →
      let record (k : Nat) : SlotRecord :=
        { position := first + k, content := (at1 s.track.slots (first + k)).getD .gap, coil := s.coilOf (first + k)
          demand := demandAt s (first + k) }
      (count ≤ 2 → exec (.readTrack p first count) s = .next (answered s p 0x02 (.data
        (.track s.track.verified g.positions s.track.cradle ((List.range count).map record))))) ∧
      (count ≤ 16 → 1 ≤ field → field ≤ 13 →
        exec (.readTrackField p field first count) s = .next (answered s p 0x03 (.data (.trackField s.track.verified field
          ((List.range count).map fun k => contentCode (record k).content)
          ((List.range count).map fun k => fieldValue field (record k))))))) ∧
    (∀ (s : State) (p : Port) (field first count : Nat), Idle s p → s.line.mode = .loading ∨ s.track.geometry = none →
      exec (.readTrack p first count) s = .next (refused s p 0x02 .wrongMode) ∧
        exec (.readTrackField p field first count) s = .next (refused s p 0x03 .wrongMode)) ∧
    (∀ (s : State) (p : Port) (field first count : Nat) (g : Geometry), Idle s p → s.line.mode ≠ .loading →
      s.track.geometry = some g →
      (first = 0 ∨ g.positions < first ∨ count = 0 ∨ 2 < count ∨ g.positions < first + count - 1 →
        exec (.readTrack p first count) s = .next (refused s p 0x02 .outOfRange)) ∧
      (first = 0 ∨ g.positions < first ∨ count = 0 ∨ 16 < count ∨ g.positions < first + count - 1 ∨ field = 0 ∨
          13 < field →
        exec (.readTrackField p field first count) s = .next (refused s p 0x03 .outOfRange)))) ∧
  ((∀ (s : State) (p : Port), Idle s p → s.line.mode ≠ .loading → ∃ r ≤ bound (ordersHeard s p).silence,
      exec (.readOrders p) s = .next (answered { s with free := s.free + 1 } p 0x04 (.data
        (.orders s.orders.a s.orders.b s.orders.supply (supplyIn s) s.settings.limits.window s.settings.limits.lowMark
          s.settings.limits.highMark s.settings.timers.pressSilence r s.line.holdCauses.press
          s.line.holdCauses.silent)))) ∧
    (∀ s : State, Idle s .feeder → s.line.mode ≠ .loading → ∃ r ≤ bound s.push.timer,
      exec (.readPush .feeder) s = .next (answered { s with free := s.free + 1 } .feeder 0x22 (.data
        (.push s.push.record r s.push.station.isSome s.push.cradleWait s.push.late)))) ∧
    (∀ (s : State) (p : Port), Idle s p → s.line.mode = .loading →
      exec (.readOrders p) s = .next (refused s p 0x04 .wrongMode)) ∧
    (∀ s : State, Idle s .feeder → s.line.mode = .loading →
      exec (.readPush .feeder) s = .next (refused s .feeder 0x22 .wrongMode)))

/-- READ_RECIPE, READ_COILS, READ_CHANNELS and READ_QUEUES, with their refusals; a coil's record gives the class of its lead
billet under the urgency map and the number of its usable crosspoints; committed power is the sum of the values of R62, the
slice times remaining are free values within the timer's duration (log entry 2). -/
def Obligations.SupervisorReads : Prop :=
  (∀ (s : State) (i : Nat), Idle s .supervisor →
    (47 < i → exec (.readRecipe .supervisor i) s = .next (refused s .supervisor 0x52 .outOfRange)) ∧
    (s.line.mode = .loading →
      (i ≤ 47 → exec (.readRecipe .supervisor i) s = .next (refused s .supervisor 0x52 .wrongMode)) ∧
      exec (.readCoils .supervisor) s = .next (refused s .supervisor 0x74 .wrongMode) ∧
      exec (.readChannels .supervisor) s = .next (refused s .supervisor 0x75 .wrongMode) ∧
      exec (.readQueues .supervisor) s = .next (refused s .supervisor 0x76 .wrongMode))) ∧
  ∀ s : State, Idle s .supervisor → s.line.mode ≠ .loading →
    (∀ i r, s.recipes.entries[i]? = some r → i ≤ 47 →
      exec (.readRecipe .supervisor i) s = .next (answered s .supervisor 0x52 (.data
        (.recipe i r (s.useCount i)
          (if r.state = .empty then 0 else (r.data.target * (1000 + r.data.correction).toNat + 500) / 1000)
          s.recipes.learning)))) ∧
    (∃ rs : List CoilReport, rs.length = s.alloc.coils.length ∧
      (∀ j c, at1 s.alloc.coils j = some c → ∃ x, at1 rs j = some x ∧ x.state = c.state ∧ x.disable = c.disable ∧
        x.demand = c.demand ∧ (∀ l, c.lead = some l → x.leadPosition = l.position ∧ x.group = some l.group ∧
          x.cls = some (classUnder s.settings.urgency s.positions l)) ∧
        x.usable = (inverters.filter (usableAt s j)).length ∧
        (c.lead = none → x.leadPosition = 0 ∧ x.group = none ∧ x.cls = none) ∧
        (∀ y, s.coilRange j = some y → x.range = y) ∧
        (∀ e, at1 s.track.unattributed j = some e → x.unattributed = e)) ∧
      let committed := (inverters.map fun u => countedFor (s.channels.get u)).sum
      exec (.readCoils .supervisor) s = .next (answered s .supervisor 0x74 (.data
        (.coils s.alloc.effective (s.alloc.pendingLimit.getD 0) s.alloc.pendingLimit.isSome committed
          (s.alloc.effective - committed) s.settings.limits.threshold rs)))) ∧
    exec (.readChannels .supervisor) s = .next (answered s .supervisor 0x75 (.data
      (.channels s.channels (s.matrix.map fun x =>
        { inverter := x.inverter, coil := x.coil, state := x.state, drive := x.drive
          feedback := s.feedbackClosed x.inverter x.coil, drop := x.drop })))) ∧
    (∃ rem : Inv → Nat, (∀ u, rem u ≤ bound (s.alloc.slice.get u)) ∧
      exec (.readQueues .supervisor) s = .next (answered { s with free := s.free + 4 } .supervisor 0x76 (.data
        (.queues s.alloc.queues.q3 s.alloc.queues.q2 s.alloc.queues.q1 s.alloc.queues.q0
          (inverters.filterMap fun u => (s.alloc.grants.get u).map fun g =>
            { channel := u, coil := g.coil, number := g.number, setpoint := (s.channels.get u).grantSetpoint
              released := g.released, sliceRemaining := rem u })))))

/-! ## Events -/

/-- ACK_EVENTS: clears each named flag of the port, and answers the flags before, the flags after, the mask and, on the
supervisor port, the configuration result. -/
def Obligations.AckEventsClearsNamedFlags : Prop :=
  ∀ (s : State) (p : Port) (kinds : List Nat), Idle s p →
    ((∃ c ∈ kinds, kindOfCode p c = none) → exec (.ackEvents p kinds) s = .next (refused s p 0x06 .outOfRange)) ∧
    ((∀ c ∈ kinds, kindOfCode p c ≠ none) → ∃ after : EventSet,
      (∀ k, after.has k = ((s.ports.get p).flags.has k && !(kinds.any fun c => kindOfCode p c == some k))) ∧
      exec (.ackEvents p kinds) s = .next { s with
        ports := s.ports.set p { shiftedOut s p none with
          state := .ready { code := 0x06, body := .data (.events (s.ports.get p).flags after (s.ports.get p).mask
            (if p = .supervisor then some s.loader.result else none)) }
          flags := after }
        orders := ordersHeard s p })

/-- SET_EVENT_MASK replaces the port's mask by the kinds it names; ATTN is asserted, and shown in bit 2 of the status byte,
while a flag of the port is set and unmasked. -/
def Obligations.EventMaskAndAttn : Prop :=
  (∀ (s : State) (p : Port) (kinds : List Nat), Idle s p →
    ((∃ c ∈ kinds, kindOfCode p c = none) → exec (.setEventMask p kinds) s = .next (refused s p 0x07 .outOfRange)) ∧
    ((∀ c ∈ kinds, kindOfCode p c ≠ none) → ∃ mask : EventSet,
      (∀ k, mask.has k = kinds.any fun c => kindOfCode p c == some k) ∧
      exec (.setEventMask p kinds) s = .next { s with
        ports := s.ports.set p { shiftedOut s p none with
          state := .ready { code := 0x07, body := .accepted }
          mask := mask }
        orders := ordersHeard s p })) ∧
  (∀ r : PortRec, r.attn = true ↔ ∃ k, r.flags.has k = true ∧ r.mask.has k = false) ∧
  (∀ (r : PortRec) (p : Port), (r.statusByte p).getLsbD 2 = r.attn)

/-! ## Orders -/

/-- DEMAND: its refusals in order; an accepted one takes slot A if it is FREE and B otherwise, with its acceptance order.
CANCEL_ORDER: its refusals; a PENDING slot becomes CANCELLED(PRESS) with ORDER_CHANGED. One push evaluation follows each. -/
def Obligations.OrdersAreTakenAndCancelled : Prop :=
  (∀ (s : State) (tag deadline : Nat), Idle s .press →
      (255 < tag ∨ 600 < deadline → exec (.demand .press tag deadline) s = .next (refused s .press 0x10 .outOfRange)) ∧
      (tag ≤ 255 → deadline ≤ 600 →
        (s.line.mode ≠ .run → s.line.mode ≠ .drain →
          exec (.demand .press tag deadline) s = .next (refused s .press 0x10 .wrongMode)) ∧
        (s.line.mode = .run ∨ s.line.mode = .drain →
          (s.orders.a ≠ .free → s.orders.b ≠ .free →
            exec (.demand .press tag deadline) s = .next (refused s .press 0x10 .noSlot)) ∧
          let d : Option Nat := if deadline = 0 then none else some deadline
          (s.orders.a = .free →
            let rank := if s.orders.b = .free then 1 else 2
            exec (.demand .press tag deadline) s = .next (evaluated
              { answered s .press 0x10 (.data (.order .a rank)) with
                orders := { ordersHeard s .press with a := .pending tag rank d } })) ∧
          (s.orders.a ≠ .free → s.orders.b = .free →
            exec (.demand .press tag deadline) s = .next (evaluated
              { answered s .press 0x10 (.data (.order .b 2)) with
                orders := { ordersHeard s .press with b := .pending tag 2 d } }))))) ∧
  (∀ (s : State) (code : Nat), Idle s .press →
      (1 < code → exec (.cancelOrder .press code) s = .next (refused s .press 0x11 .outOfRange)) ∧
      ∀ n : SlotName, code = slotCode n →
        (s.line.mode = .loading → exec (.cancelOrder .press code) s = .next (refused s .press 0x11 .wrongMode)) ∧
        (s.line.mode ≠ .loading →
          (∀ tag rank d, s.orders.get n = .pending tag rank d →
            exec (.cancelOrder .press code) s = .next (evaluated (raise
              { answered s .press 0x11 .accepted with orders := (ordersHeard s .press).set n (.cancelled tag rank .press) }
              .press .orderChanged))) ∧
          (∀ tag rank d k, s.orders.get n = .serving tag rank d k →
            exec (.cancelOrder .press code) s = .next (refused s .press 0x11 .busy)) ∧
          ((s.orders.get n).isPending = false → (∀ tag rank d k, s.orders.get n ≠ .serving tag rank d k) →
            exec (.cancelOrder .press code) s = .next (refused s .press 0x11 .wrongMode))))

/-- RELEASE_ORDER: its refusals; a final slot becomes FREE and the other slot, unless FREE, takes acceptance order 1; nothing
else changes, ORDER_CHANGED included. -/
def Obligations.ReleaseOrderFreesAFinalSlot : Prop :=
  ∀ (s : State) (code : Nat), Idle s .press →
    (1 < code → exec (.releaseOrder .press code) s = .next (refused s .press 0x12 .outOfRange)) ∧
    ∀ n : SlotName, code = slotCode n →
      (s.line.mode = .loading → exec (.releaseOrder .press code) s = .next (refused s .press 0x12 .wrongMode)) ∧
      (s.line.mode ≠ .loading →
        let freed := fun (other : OrderSlot) =>
          exec (.releaseOrder .press code) s = .next
            { answered s .press 0x12 .accepted with
              orders := ((ordersHeard s .press).set n .free).set (otherSlot n) other }
        let other := (s.orders.get (otherSlot n)).withRank 1
        match s.orders.get n with
        | .filled _ _ _ => freed other
        | .cancelled _ _ _ => freed other
        | .expired _ _ => freed other
        | _ => exec (.releaseOrder .press code) s = .next (refused s .press 0x12 .wrongMode))

/-! ## Holds -/

namespace Sys2Proof.Stated

/-- A PENDING slot cancelled with a reason; any other slot as it is. -/
def cancelledBy (r : CancelReason) : OrderSlot → OrderSlot
  | .pending tag rank _ => .cancelled tag rank r
  | x => x

/-- The hold requests: port, code, cause, and the request. -/
def holdRequest : Instr → Option (Port × Byte × HoldCause)
  | .pressHold .press => some (.press, 0x13, .press)
  | .hold .supervisor => some (.supervisor, 0x32, .supervisor)
  | _ => none

/-- The requests that remove hold causes: port, code, causes. -/
def runRequest : Instr → Option (Port × Byte × List HoldCause)
  | .pressRun .press => some (.press, 0x14, [.press, .silent])
  | .resume .supervisor => some (.supervisor, 0x33, [.supervisor])
  | _ => none

/-- The hold causes without those of a list. -/
def without (h : HoldCauses) (cs : List HoldCause) : HoldCauses :=
  { press := h.press && !cs.contains .press
    silent := h.silent && !cs.contains .silent
    supervisor := h.supervisor && !cs.contains .supervisor }

/-- No hold cause is held. -/
def noCause : HoldCauses := { press := false, silent := false, supervisor := false }

end Sys2Proof.Stated

/-- PRESS_HOLD and HOLD add their cause, PRESS_RUN and RESUME remove theirs; in RUN and DRAIN a cause brings HOLD, in HOLD the
last cause to leave brings the return mode. -/
def Obligations.HoldCausesJoinAndLeave : Prop :=
  (∀ (c : Instr) (s : State) (p : Port) (code : Byte) (cause : HoldCause), holdRequest c = some (p, code, cause) → Idle s p →
      (s.line.mode.noLine = true → exec c s = .next (refused s p code .wrongMode)) ∧
      (s.line.mode.noLine = false → s.line.mode ≠ .run → s.line.mode ≠ .drain →
        exec c s = .next { answered s p code .accepted with
          line := { s.line with holdCauses := s.line.holdCauses.put cause true } }) ∧
      (∀ r : ReturnMode, s.line.mode = (match r with | .run => .run | .drain => .drain) → s.lines.lineStop = false →
        ∃ t, exec c s = .next t ∧ Answers s t p code .accepted ∧ ModeChanged t ∧ FlagsWithin s t modeEvents ∧
          (Raised t .press .orderChanged ↔ Raised s .press .orderChanged ∨ s.orders.a.isPending = true ∨
            s.orders.b.isPending = true) ∧
          t = { s with
            line := { s.line with
              mode := .hold r, holdCauses := s.line.holdCauses.put cause true
              holdTimer := .running (s.settings.timers.holdLimit * 60) }
            orders := { a := cancelledBy .hold s.orders.a, b := cancelledBy .hold s.orders.b, supply := .short
                        silence := (ordersHeard s p).silence }
            push := { s.push with cradleWait := false }
            ports := t.ports })) ∧
  (∀ (c : Instr) (s : State) (p : Port) (code : Byte) (cs : List HoldCause), runRequest c = some (p, code, cs) → Idle s p →
      (s.line.mode.noLine = true → exec c s = .next (refused s p code .wrongMode)) ∧
      (s.line.mode.noLine = false →
        without s.line.holdCauses cs ≠ noCause ∨ s.line.holdCauses = noCause ∨ (∀ r, s.line.mode ≠ .hold r) →
        exec c s = .next { answered s p code .accepted with
          line := { s.line with holdCauses := without s.line.holdCauses cs } }) ∧
      (∀ r : ReturnMode, s.line.mode = .hold r → s.line.holdCauses ≠ noCause → without s.line.holdCauses cs = noCause →
        s.lines.lineStop = false → r = .run ∨ 0 < s.billets ∨ s.track.cradle ≠ none →
        ∃ t, exec c s = .next t ∧ Answers s t p code .accepted ∧ ModeChanged t ∧ FlagsWithin s t modeEvents ∧
          OnlyOrdersAndPushes s t ∧
          t.line = { s.line with
            mode := (match r with | .run => .run | .drain => .drain), holdCauses := noCause, holdTimer := .stopped } ∧
          (∀ n, (s.orders.get n).isPending = false → t.orders.get n = s.orders.get n)))

/-! ## The cradle and pushes -/

namespace Sys2Proof.Stated

/-- A defined recipe entry holds a grade, and no defined entry before it does. -/
def GradeAt (s : State) (grade i : Nat) (r : Recipe) : Prop :=
  s.recipes.entries[i]? = some r ∧ r.state ≠ .empty ∧ r.data.grade = grade ∧
    ∀ k x, k < i → s.recipes.entries[k]? = some x → x.state = .empty ∨ x.data.grade ≠ grade

/-- No defined recipe entry holds a grade. -/
def NoGrade (s : State) (grade : Nat) : Prop := ∀ x ∈ s.recipes.entries, x.state = .empty ∨ x.data.grade ≠ grade

/-- A billet record in the track has an id. -/
def IdInTrack (s : State) (id : Nat) : Prop := ∃ b, .billet b ∈ s.track.slots ∧ b.id = id

/-- A push of kind BILLET is in flight. -/
def BilletPush (s : State) : Prop := ∃ r, s.push.record = some r ∧ r.kind = .billet

/-- The checks of LOAD_BILLET in the order of R9: the refusal, or the index of the recipe entry. -/
inductive LoadCheck (s : State) (id grade : Nat) : Except Reason Nat → Prop where
  | range : id = 0 ∨ 4294967295 < id ∨ grade = 0 ∨ 65534 < grade → LoadCheck s id grade (.error .outOfRange)
  | mode : 1 ≤ id → id ≤ 4294967295 → 1 ≤ grade → grade ≤ 65534 → s.line.mode.loadsBillets = false →
      LoadCheck s id grade (.error .wrongMode)
  | busy : 1 ≤ id → id ≤ 4294967295 → 1 ≤ grade → grade ≤ 65534 → s.line.mode.loadsBillets = true → BilletPush s →
      LoadCheck s id grade (.error .busy)
  | full : 1 ≤ id → id ≤ 4294967295 → 1 ≤ grade → grade ≤ 65534 → s.line.mode.loadsBillets = true → ¬ BilletPush s →
      s.track.cradle ≠ none → LoadCheck s id grade (.error .noSlot)
  | duplicate : 1 ≤ id → id ≤ 4294967295 → 1 ≤ grade → grade ≤ 65534 → s.line.mode.loadsBillets = true →
      ¬ BilletPush s → s.track.cradle = none → IdInTrack s id → LoadCheck s id grade (.error .duplicate)
  | notFound : 1 ≤ id → id ≤ 4294967295 → 1 ≤ grade → grade ≤ 65534 → s.line.mode.loadsBillets = true →
      ¬ BilletPush s → s.track.cradle = none → ¬ IdInTrack s id → NoGrade s grade →
      LoadCheck s id grade (.error .notFound)
  | notUsable (i : Nat) (r : Recipe) : 1 ≤ id → id ≤ 4294967295 → 1 ≤ grade → grade ≤ 65534 →
      s.line.mode.loadsBillets = true → ¬ BilletPush s → s.track.cradle = none → ¬ IdInTrack s id →
      GradeAt s grade i r → r.state = .invalid → LoadCheck s id grade (.error .notUsable)
  | passed (i : Nat) (r : Recipe) : 1 ≤ id → id ≤ 4294967295 → 1 ≤ grade → grade ≤ 65534 →
      s.line.mode.loadsBillets = true → ¬ BilletPush s → s.track.cradle = none → ¬ IdInTrack s id →
      GradeAt s grade i r → r.state ≠ .invalid → LoadCheck s id grade (.ok i)

end Sys2Proof.Stated

/-- LOAD_BILLET fills the cradle, UNLOAD_CRADLE empties it, each after its checks in order; the track's slots are unchanged. A
cradle emptied in DRAIN over a track without a billet ends DRAIN, by way of STOPPING while a channel is working. -/
def Obligations.CradleLoadsAndUnloads : Prop :=
  (∀ (s : State) (id grade : Nat) (r : Reason), Idle s .feeder → LoadCheck s id grade (.error r) →
    exec (.loadBillet .feeder id grade) s = .next (refused s .feeder 0x20 r)) ∧
  (∀ (s : State) (id grade i : Nat), Idle s .feeder → LoadCheck s id grade (.ok i) →
    ∃ t, exec (.loadBillet .feeder id grade) s = .next t ∧ Answers s t .feeder 0x20 .accepted ∧
      FlagsWithin s t ((.press, .supplyChanged) :: pushEvents) ∧
      t = { s with
        track := { s.track with cradle := some { id := id, grade := grade, recipe := i } }
        orders := t.orders, push := t.push, ports := t.ports }) ∧
  (∀ s : State, Idle s .feeder →
    (s.line.mode.noLine = true → exec (.unloadCradle .feeder) s = .next (refused s .feeder 0x21 .wrongMode)) ∧
    (s.line.mode.noLine = false → BilletPush s →
      exec (.unloadCradle .feeder) s = .next (refused s .feeder 0x21 .busy)) ∧
    (s.line.mode.noLine = false → ¬ BilletPush s → s.track.cradle = none →
      exec (.unloadCradle .feeder) s = .next (refused s .feeder 0x21 .notFound)) ∧
    (s.line.mode.noLine = false → ¬ BilletPush s → s.track.cradle ≠ none →
      s.line.restartMark = false ∨ s.line.mode ≠ .drain →
      ∃ t, exec (.unloadCradle .feeder) s = .next t ∧ Answers s t .feeder 0x21 .accepted ∧
        t.track = { s.track with cradle := none } ∧ t.recipes = s.recipes ∧ t.settings = s.settings ∧
        (0 < s.billets ∨ (s.line.mode ≠ .drain ∧ s.line.mode ≠ .purge) →
          t = { s with
            track := { s.track with cradle := none }, orders := t.orders, push := t.push, ports := t.ports }) ∧
        (s.billets = 0 → s.line.mode = .drain → s.lines.lineStop = false →
          t.line.mode = (if s.anyWorking then .stopping .standby else .standby) ∧ ModeChanged t)))

namespace Sys2Proof.Stated

/-- The reports of the feeder with their request codes. -/
def reportOf : Instr → Option (Nat × Byte)
  | .pushDone .feeder n => some (n, 0x23)
  | .pushFaultNotStarted .feeder n => some (n, 0x24)
  | .pushFaultIncomplete .feeder n => some (n, 0x24)
  | _ => none

/-- What an order slot becomes when it is returned not served (the table of R155). -/
def returned (mode : Mode) (restart : Bool) : OrderSlot → OrderSlot
  | .serving tag rank d _ =>
    (match mode with
      | .run | .drain => .pending tag rank d
      | .hold _ => .cancelled tag rank .hold
      | .stopping _ => .cancelled tag rank (if restart then .restart else .mode)
      | _ => .cancelled tag rank .mode)
  | x => x

/-- The state with the served order slot of a push handed back; an entry into CANCELLED raises ORDER_CHANGED. -/
def handedBack (s : State) : Option Served → State
  | none => s
  | some v =>
    let x := s.orders.get v.slot
    let y := returned s.line.mode s.line.restartMark x
    let s1 := { s with orders := s.orders.set v.slot y }
    match x, y with
    | .serving _ _ _ _, .cancelled _ _ _ => raise s1 .press .orderChanged
    | _, _ => s1

/-- The record of a billet charged from the cradle (R13, R42). -/
def charged (s : State) (c : PendingBillet) (r : Recipe) : Billet :=
  { id := c.id, grade := c.grade, recipe := c.recipe, charge := some s.track.chargeCounter, thermal := .heating
    delivered := 0, target := some ((r.data.target * (1000 + r.data.correction).toNat + 500) / 1000), loss := 0
    suspect := none, reject := false }

/-- The track after the shift of a push (R13, R14). -/
def shifted (s : State) (kind : PushKind) : TrackMgr :=
  match kind, s.track.cradle with
  | .billet, some c =>
    { s.track with
      slots := .billet (charged s c (s.recipe c.recipe)) :: s.track.slots.dropLast
      cradle := none
      chargeCounter := if s.track.chargeCounter = 4294967295 then 1 else s.track.chargeCounter + 1 }
  | .billet, none => { s.track with slots := .gap :: s.track.slots.dropLast }
  | .gap, _ => { s.track with slots := .gap :: s.track.slots.dropLast }

/-- What the discharge station does with the content that left position N (the table of R139). -/
inductive StationAct where
  | nothing
  | divert (b : Billet) (reason : DivertReason)
  | measure (b : Billet) (v : Served)

def stationAct (leaving : Option Slot) (served : Option Served) (mode : Mode) : StationAct :=
  match leaving with
  | some (.billet b) =>
    if b.suspect ≠ none ∨ b.reject = true then .divert b .rejectBound
    else
      (match b.thermal, served with
        | .overheld _, _ => .divert b .rejectBound
        | .ready _, some v => if mode = .faultStop then .divert b .lineFault else .measure b v
        | .ready _, none => .divert b .unmeasured
        | _, _ => .divert b .underheated)
  | _ => .nothing

/-- The history with one entry appended, the oldest dropped beyond 16 (R146). -/
def historyWith (h : List HistoryEntry) (x : HistoryEntry) : List HistoryEntry :=
  if h.length < 16 then h ++ [x] else h.drop (h.length - 15) ++ [x]

/-- The history entry of a classification (R146). -/
def entryOf (b : Billet) (o : ClassOutcome) (temp : Option Nat) (served : Option Served) : HistoryEntry :=
  { id := b.id, grade := b.grade, charge := b.charge.getD 0, outcome := o, temperature := temp
    tag := served.map Served.tag }

/-- The classification count after one more (R144). -/
def counted (c : Nat) : Nat := if c < 4294967295 then c + 1 else 0

end Sys2Proof.Stated

/-- PUSH_DONE: the column moves one position, the cradle billet is charged, the record is cleared, and the leaving content
is diverted at once, its served order slot returned, or measured. One that leaves the track without a billet ends PURGE, and
DRAIN with an empty cradle. It is taken in FAULT_STOP with LINE_STOP asserted as in any other mode. -/
def Obligations.PushDoneShiftsTheTrack : Prop :=
  ∀ (s : State) (r : PushRecord), Idle s .feeder → s.push.record = some r → 1 ≤ r.number → r.number ≤ 255 →
    s.push.station = none → s.line.restartMark = false → s.lines.lineStop = false ∨ s.line.mode = .faultStop →
    let after := shifted s r.kind
    let noBillet := ∀ b, Slot.billet b ∉ after.slots
    ∃ t, exec (.pushDone .feeder r.number) s = .next t ∧ Answers s t .feeder 0x23 .accepted ∧
      t.track = after ∧ t.push.late = s.push.late ∧ t.settings = s.settings ∧ t.loader = s.loader ∧
      t.recipes = s.recipes ∧ t.lines.feedback = s.lines.feedback ∧ t.free = s.free ∧
      (t.push.record = none ∨ ∃ x, t.push.record = some x ∧ x.number = s.push.counter ∧ Raised t .feeder .pushOrdered) ∧
      (s.line.mode = .purge → noBillet → t.line.mode = .standby ∧ ModeChanged t) ∧
      (s.line.mode = .drain → noBillet → after.cradle = none →
        t.line.mode = (if s.anyWorking then .stopping .standby else .standby) ∧ ModeChanged t) ∧
      match stationAct s.track.slots.getLast? r.served s.line.mode with
      | .nothing =>
        t.push.station = none ∧ t.push.history = s.push.history ∧ t.push.classCount = s.push.classCount ∧
          t.lines.divert = s.lines.divert
      | .divert b reason =>
        t.push.station = none ∧
          t.push.history = historyWith s.push.history (entryOf b (.diverted reason) none r.served) ∧
          t.push.classCount = counted s.push.classCount ∧ t.lines.divert = true ∧ Raised t .supervisor .historyAdded ∧
          (∀ v tag rank d k, r.served = some v → s.orders.get v.slot = .serving tag rank d k →
            ((s.line.mode ≠ .run ∧ s.line.mode ≠ .drain) ∨ (s.line.mode = .drain ∧ noBillet ∧ after.cradle = none) →
              t.orders.get v.slot = .cancelled tag rank (match s.line.mode with
                | .hold _ => .hold
                | _ => .mode) ∧ Raised t .press .orderChanged) ∧
            (s.line.mode = .run ∨ (s.line.mode = .drain ∧ ¬ (noBillet ∧ after.cradle = none)) →
              t.orders.get v.slot = .pending tag rank d ∨
                ∃ x, t.push.record = some x ∧ t.orders.get v.slot = .serving tag rank d x.number))
      | .measure b v =>
        t.push.station = some { billet := b, served := v, push := r.number } ∧
          t.push.measureTimer = .running s.settings.timers.measureTimeout ∧ t.push.history = s.push.history ∧
          t.push.classCount = s.push.classCount ∧ t.lines.divert = s.lines.divert ∧ t.push.record = none

/-- The checks of PUSH_DONE and PUSH_FAULT: the number's range, then the push in flight. PUSH_FAULT NOT_STARTED: the record is
cleared, the served order slot is handed back, and one push evaluation follows; the track and the cradle are unchanged. -/
def Obligations.PushReportsAndNotStarted : Prop :=
  (∀ (c : Instr) (n : Nat) (code : Byte) (s : State), reportOf c = some (n, code) → Idle s .feeder →
      (n = 0 ∨ 255 < n → exec c s = .next (refused s .feeder code .outOfRange)) ∧
      (1 ≤ n → n ≤ 255 → (∀ r, s.push.record = some r → r.number ≠ n) →
        exec c s = .next (refused s .feeder code (if n = s.push.late then .tooLate else .notFound)))) ∧
  (∀ (s : State) (r : PushRecord), Idle s .feeder → s.push.record = some r → 1 ≤ r.number → r.number ≤ 255 →
      exec (.pushFaultNotStarted .feeder r.number) s = .next (evaluated (handedBack
        { answered s .feeder 0x24 .accepted with push := { s.push with record := none, timer := .stopped } } r.served)))

/-- PUSH_FAULT INCOMPLETE and the push timeout: the track becomes UNDECLARED and unverified, the cradle is emptied after a push
of kind BILLET, TRACK_UNVERIFIED is raised, every coil is left without demand, and the line is in FAULT_STOP with the cause (the order of the two: log entry 25). -/
def Obligations.LostPushUnverifiesTheTrack : Prop :=
  ∀ (s : State) (r : PushRecord), s.push.record = some r → s.push.station = none → s.line.mode.noLine = false →
    let lost (t : State) (cause : StopCause) (late : Nat) : Prop :=
      t.track = { s.track with
        slots := s.track.slots.map fun _ => .undeclared, verified := false
        cradle := if r.kind = .billet then none else s.track.cradle } ∧
      t.push = { s.push with record := none, timer := .stopped, cradleWait := false, late := late } ∧
      t.line.mode = .faultStop ∧ t.line.stopCauses = s.line.stopCauses.add cause ∧
      Raised t .supervisor .trackUnverified ∧ (s.line.mode ≠ .faultStop → ModeChanged t) ∧
      (∀ j c, t.coil j = some c → c.demand = 0 ∧ c.lead = none) ∧
      (∀ v tag rank d k, r.served = some v → s.orders.get v.slot = .serving tag rank d k →
        s.line.mode = .run ∨ s.line.mode = .drain →
        t.orders.get v.slot = .cancelled tag rank .mode ∧ Raised t .press .orderChanged) ∧
      t.recipes = s.recipes ∧ t.settings = s.settings ∧ t.lines = s.lines ∧ t.loader = s.loader
    (Idle s .feeder → 1 ≤ r.number → r.number ≤ 255 →
      ∃ t, exec (.pushFaultIncomplete .feeder r.number) s = .next t ∧ Answers s t .feeder 0x24 .accepted ∧
        lost t .incomplete s.push.late) ∧
    (s.push.timer ≠ .stopped →
      ∃ t, exec .pushTimeout s = .next t ∧ PortsQuiet s t ∧ lost t .pushTimeout r.number)

namespace Sys2Proof.Stated

/-- The state after a push is ordered (R130). -/
def ordered (s : State) (kind : PushKind) (origin : Origin) (claim : Option (SlotName × Nat)) : State :=
  { s with
    push := { s.push with
      record := some
        { number := s.push.counter, kind := kind, origin := origin
          served := claim.map fun c => { slot := c.1, tag := c.2 }
          chargedId := if kind = .billet then s.track.cradle.map PendingBillet.id else none }
      counter := if s.push.counter = 255 then 1 else s.push.counter + 1
      timer := .running (s.settings.timers.pushTimeout * 1000)
      cradleWait := false }
    orders := match claim with
      | none => s.orders
      | some c =>
        (match s.orders.get c.1 with
          | .pending tag rank d => s.orders.set c.1 (.serving tag rank d s.push.counter)
          | _ => s.orders)
    ports := (raise s .feeder .pushOrdered).ports }

/-- The oldest PENDING order slot with its tag (R150): the only PENDING one, or the one with acceptance order 1. -/
def OldestPending (s : State) (n : SlotName) (tag : Nat) : Prop :=
  ∃ rank d, s.orders.get n = .pending tag rank d ∧
    ((s.orders.get (otherSlot n)).isPending = false ∨ (rank = 1 ∧ (s.orders.get (otherSlot n)).rank ≠ 1))

/-- What position N asks for (the table of R128): an origin, with the order slot that is claimed; or nothing. -/
inductive ExitAsks (s : State) : Option (Origin × Option (SlotName × Nat)) → Prop where
  | fill : s.track.slots.getLast? = some .gap → ExitAsks s (some (.fill, none))
  | divert (b : Billet) : s.track.slots.getLast? = some (.billet b) → b.rejectBound = true →
      ExitAsks s (some (.divert, none))
  | serve (b : Billet) (h : Nat) (n : SlotName) (tag : Nat) : s.track.slots.getLast? = some (.billet b) →
      b.rejectBound = false → b.thermal = .ready h → OldestPending s n tag → ExitAsks s (some (.serve, some (n, tag)))
  | noOrder (b : Billet) (h : Nat) : s.track.slots.getLast? = some (.billet b) → b.rejectBound = false →
      b.thermal = .ready h → s.orders.a.isPending = false → s.orders.b.isPending = false → ExitAsks s none
  | notReady (b : Billet) : s.track.slots.getLast? = some (.billet b) → b.rejectBound = false →
      (∀ h, b.thermal ≠ .ready h) → ExitAsks s none

/-- No push is wanted: the evaluation clears the cradle wait mark and nothing else changes (R127, R131). -/
def NoneWanted (s : State) : Prop := evaluated s = { s with push := { s.push with cradleWait := false } }

end Sys2Proof.Stated

/-- The push evaluation: when a push is wanted and of which kind and origin (R127 to R129), what ordering it changes (R130), and
the cradle wait mark with CRADLE_WANTED (R127, R131), in RUN, DRAIN, PURGE and elsewhere. That DRAIN wants no push with a billet
in the cradle and none in the track is read from R129's last sentence by inference (log entry 26). -/
def Obligations.PushEvaluation : Prop :=
  (∀ s : State, s.push.record ≠ none ∨ s.push.station ≠ none ∨ s.track.verified = false ∨
      (s.line.mode ≠ .run ∧ s.line.mode ≠ .drain ∧ s.line.mode ≠ .purge) → NoneWanted s) ∧
  (∀ s : State, s.push.record = none → s.push.station = none → s.track.verified = true →
    (s.line.mode = .run →
      (∀ o claim c, ExitAsks s (some (o, claim)) → s.track.cradle = some c → evaluated s = ordered s .billet o claim) ∧
      (∀ o claim, ExitAsks s (some (o, claim)) → s.track.cradle = none →
        evaluated s = if s.push.cradleWait then s
          else raise { s with push := { s.push with cradleWait := true } } .feeder .cradleWanted) ∧
      (ExitAsks s none → NoneWanted s)) ∧
    (s.line.mode = .drain →
      (s.billets = 0 → NoneWanted s) ∧
      (∀ o claim c, 0 < s.billets → ExitAsks s (some (o, claim)) → s.track.cradle = some c →
        evaluated s = ordered s .billet o claim) ∧
      (∀ o, 0 < s.billets → ExitAsks s (some (o, none)) → s.track.cradle = none →
        evaluated s = ordered s .gap .drain none) ∧
      (∀ o c, 0 < s.billets → ExitAsks s (some (o, some c)) → s.track.cradle = none →
        evaluated s = ordered s .gap .serve (some c)) ∧
      (ExitAsks s none → NoneWanted s)) ∧
    (s.line.mode = .purge →
      (s.billets = 0 → NoneWanted s) ∧ (0 < s.billets → evaluated s = ordered s .gap .purge none)))

/-! ## Line modes -/

namespace Sys2Proof.Stated

/-- No queue holds a coil, no coil is QUEUED, and every grant is released (R72). -/
def HeatingEnded (t : State) : Prop :=
  t.alloc.queues = ⟨[], [], [], []⟩ ∧ (∀ j c, t.coil j = some c → ∀ k, c.state ≠ .queued k) ∧
    ∀ u g, t.alloc.grants.get u = some g → g.released = true

/-- The slots after an entry into a mode that cancels PENDING orders with reason MODE (R158). -/
def PendingCancelled (s t : State) : Prop :=
  ∀ n, t.orders.get n = cancelledBy .mode (s.orders.get n)

/-- The checks of PURGE (R175). -/
def purgeRefusal (s : State) : Option Reason :=
  if s.line.mode ≠ .standby ∧ (∀ r ∈ [ReturnMode.run, .drain], s.line.mode ≠ .hold r) then some .wrongMode
  else if s.track.verified = false then some .wrongMode
  else if s.billets = 0 then some .notFound
  else none

/-- The checks of RESET_FAULT (R179). -/
def resetRefusal (s : State) : Option Reason :=
  if s.line.mode ≠ .faultStop then some .wrongMode
  else if s.lines.lineStop = true then some .notUsable
  else if inverters.any (fun u => (s.channels.get u).state.working || (s.channels.get u).state == .faulted .noStop) then
    some .busy
  else if s.push.record ≠ none then some .busy
  else none

/-- The checks of WARM_RESTART (R181). -/
def restartRefusal (s : State) : Option Reason :=
  if s.line.mode.noLine = true ∨ s.line.mode = .faultStop then some .wrongMode
  else if s.line.restartMark = true then some .busy
  else if s.push.record ≠ none then some .busy
  else if inverters.any (fun u => (s.channels.get u).state == .faulted .noStop) then some .busy
  else none

/-- The GAP push PURGE orders at its entry (R129), when none is in flight and the station is EMPTY. -/
def PurgePushOrdered (s t : State) : Prop :=
  s.push.record = none → s.push.station = none →
    t.push.record = some
      { number := s.push.counter, kind := .gap, origin := .purge, served := none, chargedId := none } ∧
      Raised t .feeder .pushOrdered

end Sys2Proof.Stated

/-- START: its refusals; with no channel UNREACHED it is decided at once: the coils that meet the joining conditions join in
descending coil number and one allocation pass grants (a queued coil with a closed drive in its column is log entry 15's), and
the supply indicator follows the mode and the count. Otherwise a discovery round begins and the answer is held back; the answer
of the round's last channel decides it. -/
def Obligations.StartDecides : Prop :=
  (∀ s : State, Idle s .supervisor → s.line.mode ≠ .standby ∨ s.track.verified = false →
    exec (.start .supervisor) s = .next (refused s .supervisor 0x30 .wrongMode)) ∧
  (∀ s : State, Idle s .supervisor → s.line.mode = .standby → s.track.verified = true →
    (∀ u, (s.channels.get u).state ≠ .unreached) →
    ((∀ u, (s.channels.get u).state ≠ .idle) →
      exec (.start .supervisor) s = .next (refused s .supervisor 0x30 .notUsable)) ∧
    (∀ u, (s.channels.get u).state = .idle → s.lines.lineStop = false →
      ∃ t, exec (.start .supervisor) s = .next t ∧ Answers s t .supervisor 0x30 .accepted ∧ ModeChanged t ∧
        TrackKept s t ∧
        t.line = (if s.line.holdCauses = noCause then { s.line with mode := .run, holdTimer := .stopped }
          else { s.line with
            mode := .hold .run, holdTimer := .running (s.settings.timers.holdLimit * 60) }) ∧
        AllocatesAs t (afterPass (joinedAll { s with line := t.line })) ∧
        t.orders.supply = indicatorIn t s.orders.supply ∧
        (t.orders.supply ≠ s.orders.supply → Raised t .press .supplyChanged))) ∧
  (∀ (s : State) (u : Inv), Idle s .supervisor → s.line.mode = .standby → s.track.verified = true →
    (s.channels.get u).state = .unreached →
    ∃ l : Link, exec (.start .supervisor) s = .next { s with
      ports := s.ports.set .supervisor { shiftedOut s .supervisor none with state := .processing 0x30 }
      link := l } ∧
    l.rounds = s.link.rounds ++
      [{ waiting := inverters.filter fun v => (s.channels.get v).state == .unreached, forStart := true }] ∧
    ∀ v, (s.channels.get v).state = .unreached → l.discovery.get v ≠ .none ∧
      (s.link.discovery.get v = .none → (s.channels.get v).clearing = false → s.link.startMark.get v = false →
        s.link.holdback.get v = .stopped → s.startStopQueued v = false →
        { owner := v, command := .readState, purpose := .discovery } ∈ l.queue)) ∧
  (∀ (s : State) (u : Inv) (r : StateReport) (x : Transaction), s.link.inFlight = some x → x.discard = false →
    x.entry = { owner := u, command := .readState, purpose := .discovery } →
    s.link.rounds = [{ waiting := [u], forStart := true }] → s.ports.supervisor.state = .processing 0x30 →
    (s.channels.get u).state = .unreached → s.line.mode = .standby → s.lines.lineStop = false →
    s.line.holdCauses = noCause → r.output = .off → r.faultCode = none →
    ∃ t, exec (.state (Inv.num u) r) s = .next t ∧ t.line.mode = .run ∧ ModeChanged t ∧
      t.ports.supervisor.state = .ready { code := 0x30, body := .accepted } ∧ t.link.rounds = [])

/-- PURGE, ABORT_PURGE, DRAIN and END_DRAIN: their refusals, the modes they lead to and what they leave as it was. -/
def Obligations.PurgeAndDrainRequests : Prop :=
  ∀ s : State, Idle s .supervisor →
    (∀ r, purgeRefusal s = some r → exec (.purge .supervisor) s = .next (refused s .supervisor 0x34 r)) ∧
    (purgeRefusal s = none → s.lines.lineStop = false → s.line.restartMark = false →
      ∃ t, exec (.purge .supervisor) s = .next t ∧ Answers s t .supervisor 0x34 .accepted ∧ ModeChanged t ∧
        TrackKept s t ∧ PendingCancelled s t ∧
        t.line = { s.line with
          mode := if s.line.mode ≠ .standby ∧ s.anyWorking then .stopping .purge else .purge, holdTimer := .stopped } ∧
        (s.line.mode ≠ .standby → HeatingEnded t) ∧ (t.line.mode = .purge → PurgePushOrdered s t)) ∧
    (s.line.mode ≠ .purge → s.line.mode ≠ .stopping .purge →
      exec (.abortPurge .supervisor) s = .next (refused s .supervisor 0x35 .wrongMode)) ∧
    (s.line.mode = .purge ∨ s.line.mode = .stopping .purge → s.lines.lineStop = false → s.line.restartMark = false →
      ∃ t, exec (.abortPurge .supervisor) s = .next t ∧ Answers s t .supervisor 0x35 .accepted ∧ ModeChanged t ∧
        OnlyOrdersAndPushes s t ∧ PendingCancelled s t ∧
        t.line = { s.line with
          mode := if s.line.mode = .purge then .standby else .stopping .standby, holdTimer := .stopped }) ∧
    (s.line.mode ≠ .run → exec (.drain .supervisor) s = .next (refused s .supervisor 0x36 .wrongMode)) ∧
    (s.line.mode = .run → s.billets = 0 → s.track.cradle = none →
      exec (.drain .supervisor) s = .next (refused s .supervisor 0x36 .notFound)) ∧
    (s.line.mode = .run → 0 < s.billets ∨ s.track.cradle ≠ none → s.lines.lineStop = false →
      ∃ t, exec (.drain .supervisor) s = .next t ∧ Answers s t .supervisor 0x36 .accepted ∧ ModeChanged t ∧
        OnlyOrdersAndPushes s t ∧ t.line = { s.line with mode := .drain, holdTimer := .stopped } ∧
        (∀ n, (s.orders.get n).isPending = false → t.orders.get n = s.orders.get n)) ∧
    (s.line.mode ≠ .drain → exec (.endDrain .supervisor) s = .next (refused s .supervisor 0x37 .wrongMode)) ∧
    (s.line.mode = .drain → s.lines.lineStop = false →
      ∃ t, exec (.endDrain .supervisor) s = .next t ∧ Answers s t .supervisor 0x37 .accepted ∧ ModeChanged t ∧
        OnlyOrdersAndPushes s t ∧ t.line = { s.line with mode := .run, holdTimer := .stopped } ∧
        (∀ n, (s.orders.get n).isPending = false → t.orders.get n = s.orders.get n))

/-- STOP: refused outside RUN, HOLD and DRAIN; otherwise heating ends, PENDING orders are cancelled, and the line goes to
STANDBY, by way of STOPPING while a channel is working. RESET_FAULT: its checks in order; accepted, the line enters STANDBY
with the fault-cause set empty. -/
def Obligations.StopAndResetFault : Prop :=
  (∀ s : State, Idle s .supervisor →
      (s.line.mode.heating = false → exec (.stop .supervisor) s = .next (refused s .supervisor 0x31 .wrongMode)) ∧
      (s.line.mode.heating = true → s.lines.lineStop = false → s.line.restartMark = false →
        ∃ t, exec (.stop .supervisor) s = .next t ∧ Answers s t .supervisor 0x31 .accepted ∧ ModeChanged t ∧
          TrackKept s t ∧ HeatingEnded t ∧ PendingCancelled s t ∧ t.push = { s.push with cradleWait := false } ∧
          t.line = { s.line with
            mode := if s.anyWorking then .stopping .standby else .standby, holdTimer := .stopped })) ∧
  (∀ s : State, Idle s .supervisor →
      (∀ r, resetRefusal s = some r → exec (.resetFault .supervisor) s = .next (refused s .supervisor 0x38 r)) ∧
      (resetRefusal s = none →
        ∃ t, exec (.resetFault .supervisor) s = .next t ∧ Answers s t .supervisor 0x38 .accepted ∧ ModeChanged t ∧
          OnlyOrdersAndPushes s t ∧ PendingCancelled s t ∧
          t.line = { s.line with
            mode := .standby, holdTimer := .stopped, stopCauses := ⟨false, false, false, false, false⟩ }))

namespace Sys2Proof.Stated

/-- The values a warm restart leaves (R182), `mode` being the mode entered. -/
def Restarted (s t : State) (mode : Mode) : Prop :=
  t.line = {
    mode := mode, holdCauses := noCause, holdTimer := .stopped
    stopCauses := ⟨s.lines.lineStop, false, false, false, false⟩, restartMark := false } ∧
  t.track = { s.track with
    slots := List.replicate s.positions .undeclared, verified := false, cradle := none, chargeCounter := 1
    unattributed := s.track.unattributed.map fun _ => 0 } ∧
  (t.alloc.queues = ⟨[], [], [], []⟩ ∧ (∀ u, t.alloc.grants.get u = none) ∧ t.alloc.grantCounter = 1 ∧
    t.alloc.pendingLimit = none ∧ t.alloc.effective = s.alloc.effective ∧ (∀ u, t.alloc.slice.get u = .stopped) ∧
    t.alloc.coils.length = s.alloc.coils.length ∧
    ∀ j c, s.coil j = some c → t.coil j = some
      { state := if c.state = .disabled ∨ c.state = .locked then c.state else .unpowered
        disable := c.disable, demand := 0, lead := none }) ∧
  (t.orders.a = .free ∧ t.orders.b = .free ∧ t.orders.supply = .short ∧ t.orders.silence = s.orders.silence) ∧
  t.push = { s.push with
    record := none, timer := .stopped, cradleWait := false, station := none, measureTimer := .stopped, history := []
    classCount := 0 } ∧
  t.lines = { s.lines with divert := true } ∧
  (∀ u, let c := s.channels.get u
    t.channels.get u = { c with
      coil := none, grantSetpoint := 0, accepted := 0, commanded := none, deferred := none, release := false
      pendingCause := none, pendingWelded := false, sent := false, timedOut := false, lateCause := none, rejects := 0
      clearing := false
      stopConfirm := .stopped, retry := none }) ∧
  (t.link.queue = s.link.queue.filter (fun x => x.purpose == .startStop) ∧ (∀ u, t.link.pollDue.get u = false) ∧
    t.link.pointer = 0 ∧ t.link.rounds = [] ∧ t.link.pollTimer = s.link.pollTimer ∧
    t.link.startMark = s.link.startMark ∧ t.link.driver = s.link.driver) ∧
  t.matrix = s.matrix ∧ t.recipes = s.recipes ∧ t.settings = s.settings ∧ t.loader = s.loader ∧
  ∀ p k, (t.ports.get p).flags.has k = (k == .modeChanged) ∧ (t.ports.get p).mask.has k = false

end Sys2Proof.Stated

namespace Sys2Proof.Stated

/-- The state a channel takes when its crosspoint is confirmed open (R87, R98). -/
def afterOpening (c : Channel) : ChannelState :=
  if c.pendingWelded then .locked (match c.pendingCause with
    | none => .idle
    | some .linkLost => .faulted .linkLost
    | some .rejected => .faulted .rejected
    | some .inverterFault => .faulted .inverterFault)
  else
    match c.pendingCause with
    | none => .idle
    | some .linkLost => .faulted .linkLost
    | some .rejected => .faulted .rejected
    | some .inverterFault => .faulted .inverterFault

/-- The state once the crosspoint `x` of Ui/Cj, Cj assigned to Ui, is confirmed open: the level, the crosspoint, the channel's
state, and the coil out of ASSIGNED (R51, R87, R96). -/
def confirmedOpen (s : State) (u : Inv) (j : Nat) (x : Crosspoint) : State :=
  { s with
    lines := { s.lines with feedback := s.lines.feedback.set u ((s.lines.feedback.get u).set (j - 1) false) }
    matrix := s.matrix.map fun y =>
      if y.inverter = u ∧ y.coil = j then
        { y with state := if x.drop then .failOpen else .opened, timer := .stopped, drop := false }
      else y
    channels := s.channels.set u { s.channels.get u with state := afterOpening (s.channels.get u) }
    alloc := { s.alloc with
      coils := mod1 s.alloc.coils j fun c =>
        if c.state = .assigned u then { c with state := if c.disable then .disabled else .unpowered } else c } }

end Sys2Proof.Stated

/-- WARM_RESTART: its checks in order; with no channel working its values apply at once, otherwise the line goes to
STOPPING(STANDBY) with the restart mark set, and its values apply when the last working channel's crosspoint is confirmed
open. -/
def Obligations.WarmRestartAppliesItsValues : Prop :=
  (∀ (s : State) (u : Inv) (j : Nat) (x : Crosspoint), 1 ≤ j → j ≤ (s.lines.feedback.get u).length →
    s.line.mode = .stopping .standby → s.line.restartMark = true → s.lines.lineStop = false →
    (∀ r ∈ s.link.rounds, r.forStart = false) → s.crosspoint u j = some x → x.state = .opening →
    (s.channels.get u).state = .opening → (s.channels.get u).coil = some j →
    (∀ v, v ≠ u → (s.channels.get v).state.working = false) →
    ∃ t, exec (.feedbackOpen u j) s = .next t ∧ PortsQuiet s t ∧ Restarted (confirmedOpen s u j x) t .standby) ∧
  ∀ s : State, Idle s .supervisor →
    (∀ r, restartRefusal s = some r → exec (.warmRestart .supervisor) s = .next (refused s .supervisor 0x39 r)) ∧
    (restartRefusal s = none → s.anyWorking = false → s.link.rounds.all (fun r => !r.forStart) = true →
      ∃ t, exec (.warmRestart .supervisor) s = .next t ∧ Answers s t .supervisor 0x39 .accepted ∧
        Restarted s t (if s.lines.lineStop then .faultStop else .standby)) ∧
    (restartRefusal s = none → s.anyWorking = true → s.lines.lineStop = false →
      ∃ t, exec (.warmRestart .supervisor) s = .next t ∧ Answers s t .supervisor 0x39 .accepted ∧
        t.line.mode = .stopping .standby ∧ t.line.restartMark = true ∧ t.line.holdCauses = s.line.holdCauses ∧
        TrackKept s t ∧ (s.line.mode ≠ .stopping .standby → ModeChanged t) ∧
        (s.line.mode.heating = true → HeatingEnded t) ∧
        (s.line.mode ≠ .stopping .standby → ∀ n, t.orders.get n = cancelledBy .restart (s.orders.get n)))

/-! ## The track -/

namespace Sys2Proof.Stated

/-- The charge counter after n numbers are given (R14). -/
def advance : Nat → Nat → Nat
  | c, 0 => c
  | c, n + 1 => advance (if c = 4294967295 then 1 else c + 1) n

/-- A declared record that has no charge sequence number stands at a position. -/
def unchargedAt (slots : List Slot) (p : Nat) : Bool :=
  match at1 slots p with
  | some (.billet b) => b.charge.isNone
  | _ => false

/-- The number of uncharged records at the positions beyond p. -/
def unchargedBeyond (slots : List Slot) (p : Nat) : Nat :=
  (((List.range slots.length).map (· + 1)).filter fun q => decide (p < q) && unchargedAt slots q).length

/-- An entry of DECLARE_SLOTS passes its range check (R4). -/
def entryInRange : DeclEntry → Bool
  | .gap => true
  | .billet id grade => decide (1 ≤ id) && decide (id ≤ 4294967295) && decide (1 ≤ grade) && decide (grade ≤ 65534)

/-- What an entry puts in its slot (R5). -/
def declared (s : State) : DeclEntry → Slot
  | .gap => .gap
  | .billet id grade =>
    .billet { id := id, grade := grade, recipe := (s.findGrade grade).getD 0, charge := none, thermal := .heating
              delivered := 0, target := none, loss := 0, suspect := some .declared, reject := false }

/-- The slots with the entries put in from position `first` on. -/
def declaredOver (s : State) (first : Nat) (es : List DeclEntry) : List Slot :=
  s.track.slots.take (first - 1) ++ es.map (declared s) ++ s.track.slots.drop (first - 1 + es.length)

/-- The checks of DECLARE_SLOTS under a geometry in force, in the order of R4. -/
def declareRefusal (s : State) (n first : Nat) (es : List DeclEntry) : Option Reason :=
  let ids := es.filterMap fun e => match e with
    | .gap => none
    | .billet id _ => some id
  let grades := es.filterMap fun e => match e with
    | .gap => none
    | .billet _ grade => some grade
  let kept := s.track.slots.take (first - 1) ++ s.track.slots.drop (first - 1 + es.length)
  if ¬ (1 ≤ first ∧ first ≤ n ∧ 1 ≤ es.length ∧ es.length ≤ 7 ∧ first + es.length - 1 ≤ n ∧
      es.all entryInRange = true) then some .outOfRange
  else if s.line.mode ≠ .standby ∧ s.line.mode ≠ .faultStop then some .wrongMode
  else if s.track.verified = true then some .wrongMode
  else if s.push.record ≠ none then some .busy
  else if ¬ ids.Nodup ∨ (∃ id ∈ ids, (s.track.cradle.map PendingBillet.id) = some id) ∨
      (∃ id ∈ ids, ∃ x ∈ kept, x.hasId id = true) then some .duplicate
  else if ∃ g ∈ grades, s.findGrade g = none then some .notFound
  else if ∃ g ∈ grades, ∃ i ∈ List.range 48, s.findGrade g = some i ∧ (s.recipe i).state = .invalid then some .notUsable
  else none

end Sys2Proof.Stated

/-- DECLARE_SLOTS: its checks in order, with a geometry in force and without one; the named slots take their entries; while an
UNDECLARED slot remains the track stays unverified, and otherwise it is verified and the declared billets are charged from the
exit end. That the entry count, the billet ids and the grades are still tested while no geometry is in force is the model's
choice (log entry 53). -/
def Obligations.DeclareSlotsDeclaresAndCharges : Prop :=
  (∀ (s : State) (first : Nat) (es : List DeclEntry), Idle s .supervisor → s.track.geometry = none →
    s.line.mode.noLine = true →
    exec (.declareSlots .supervisor first es) s = .next (refused s .supervisor 0x41
      (if 1 ≤ es.length ∧ es.length ≤ 7 ∧ es.all entryInRange = true then .wrongMode else .outOfRange))) ∧
  ∀ (s : State) (g : Geometry) (first : Nat) (es : List DeclEntry), Idle s .supervisor →
    s.track.geometry = some g → s.track.slots.length = g.positions → s.recipes.entries.length = 48 →
    (∀ r, declareRefusal s g.positions first es = some r →
      exec (.declareSlots .supervisor first es) s = .next (refused s .supervisor 0x41 r)) ∧
    (declareRefusal s g.positions first es = none →
      ∃ t, exec (.declareSlots .supervisor first es) s = .next t ∧ Answers s t .supervisor 0x41 .accepted ∧ LineKept s t ∧
        let slots := declaredOver s first es
        (.undeclared ∈ slots → t.track = { s.track with slots := slots }) ∧
        (.undeclared ∉ slots →
          t.track.verified = true ∧ t.track.slots.length = slots.length ∧ t.track.geometry = s.track.geometry ∧
          t.track.cradle = s.track.cradle ∧ t.track.unattributed = s.track.unattributed ∧
          t.track.chargeCounter = advance s.track.chargeCounter (unchargedBeyond slots 0) ∧
          (∀ p, at1 slots p = some .gap → at1 t.track.slots p = some .gap) ∧
          ∀ p b, at1 slots p = some (.billet b) → at1 t.track.slots p = some (.billet
            (if b.charge = none then
              { b with
                charge := some (advance s.track.chargeCounter (unchargedBeyond slots p))
                target := some (((s.recipeOf b).target * (1000 + (s.recipeOf b).correction).toNat + 500) / 1000) }
            else b))))

namespace Sys2Proof.Stated

/-- The two requests that mark a billet: code, position, id, and what each does to the record. -/
def markRequest : Instr → Option (Byte × Nat × Nat × (Billet → Billet))
  | .markReject .supervisor p id => some (0x42, p, id, fun b => { b with reject := true })
  | .clearSuspect .supervisor p id => some (0x43, p, id, fun b => { b with suspect := none })
  | _ => none

end Sys2Proof.Stated

/-- TRACK_CLEAR: its refusals; every slot becomes GAP and the track verified, and every coil is left without demand. MARK_REJECT
and CLEAR_SUSPECT: their refusals in order; the named billet's mark is set or cleared, and every other slot is unchanged. -/
def Obligations.TrackIsClearedAndMarked : Prop :=
  (∀ s : State, Idle s .supervisor →
      (s.line.mode ≠ .standby → s.line.mode ≠ .faultStop →
        exec (.trackClear .supervisor) s = .next (refused s .supervisor 0x40 .wrongMode)) ∧
      (s.line.mode = .standby ∨ s.line.mode = .faultStop → s.push.record ≠ none →
        exec (.trackClear .supervisor) s = .next (refused s .supervisor 0x40 .busy)) ∧
      (s.line.mode = .standby ∨ s.line.mode = .faultStop → s.push.record = none →
        ∃ t, exec (.trackClear .supervisor) s = .next t ∧ Answers s t .supervisor 0x40 .accepted ∧ LineKept s t ∧
          t.track = { s.track with slots := s.track.slots.map fun _ => .gap, verified := true } ∧
          (∀ j c, t.coil j = some c → c.demand = 0 ∧ c.lead = none) ∧ t.push.history = s.push.history)) ∧
  (∀ (c : Instr) (s : State) (code : Byte) (p id : Nat) (f : Billet → Billet), markRequest c = some (code, p, id, f) →
      Idle s .supervisor →
      (s.line.mode.noLine = true → exec c s = .next (refused s .supervisor code .wrongMode)) ∧
      (∀ g, s.line.mode.noLine = false → s.track.geometry = some g → p = 0 ∨ g.positions < p →
        exec c s = .next (refused s .supervisor code .outOfRange)) ∧
      (∀ g, s.line.mode.noLine = false → s.track.geometry = some g → 1 ≤ p → p ≤ g.positions →
        (∀ b, at1 s.track.slots p = some (.billet b) → b.id ≠ id) →
        exec c s = .next (refused s .supervisor code .notFound)) ∧
      (∀ g b, s.line.mode.noLine = false → s.track.geometry = some g → 1 ≤ p → p ≤ g.positions →
        at1 s.track.slots p = some (.billet b) → b.id = id →
        ∃ t, exec c s = .next t ∧ Answers s t .supervisor code .accepted ∧ LineKept s t ∧
          t.track = { s.track with slots := s.track.slots.set (p - 1) (.billet (f b)) }))

/-! ## Recipes and learning -/

namespace Sys2Proof.Stated

/-- How many billets refer to a recipe entry (R34). -/
def uses (s : State) (i : Nat) : Nat :=
  (s.track.slots.filter fun x => match x with
    | .billet b => b.recipe == i
    | _ => false).length +
  (match s.track.cradle with
    | some c => if c.recipe = i then 1 else 0
    | none => 0) +
  (match s.push.station with
    | some m => if m.billet.recipe = i then 1 else 0
    | none => 0)

/-- Every field of a recipe lies in its range (R30, R35). -/
def fieldsOk (limit : Nat) (d : RecipeData) : Prop :=
  1 ≤ d.grade ∧ d.grade ≤ 65534 ∧ 100 ≤ d.target ∧ d.target ≤ 60000 ∧ d.fractions.length = 12 ∧
    (∀ f ∈ d.fractions, f ≤ 100) ∧ d.soak ≤ 600 ∧ 10 ≤ d.maxHold ∧ d.maxHold ≤ 3600 ∧ d.lossRate ≤ 500 ∧
    600 ≤ d.windowLow ∧ d.windowHigh ≤ 1350 ∧ d.windowLow < d.windowHigh ∧
    -(limit : Int) ≤ d.correction ∧ d.correction ≤ (limit : Int)

/-- The fraction check against n coils (R33). -/
def fractionsOk (n : Nat) (d : RecipeData) : Prop :=
  (∀ j k, 1 ≤ j → j ≤ k → k ≤ n → (at1 d.fractions j).getD 0 ≤ (at1 d.fractions k).getD 0) ∧
    at1 d.fractions n = some 100

/-- The state with one recipe entry replaced. -/
def withEntry (s : State) (i : Nat) (r : Recipe) : State :=
  { s with recipes := { s.recipes with entries := s.recipes.entries.set i r } }

/-- Another defined entry holds the grade. -/
def GradeElsewhere (s : State) (i grade : Nat) : Prop :=
  ∃ k x, k ≠ i ∧ s.recipes.entries[k]? = some x ∧ x.state ≠ .empty ∧ x.data.grade = grade

end Sys2Proof.Stated

/-- WRITE_RECIPE and DELETE_RECIPE: their checks in order, in LOADING and UNCONFIGURED with no geometry in force too; a write
replaces the entry, which becomes MODIFIED, a delete makes it EMPTY; every other entry and everything else is unchanged. That a
write of a grade which another defined entry holds is refused DUPLICATE also while a cradle billet keeps that entry in use,
where the first row of R38's table says that the write is accepted, is the model's choice (log entry 51). -/
def Obligations.RecipesAreWrittenAndDeleted : Prop :=
  (∀ (s : State) (i : Nat) (d : RecipeData) (keep : Bool), Idle s .supervisor → s.track.geometry = none →
    s.line.mode.noLine = true →
    (i ≤ 47 ∧ fieldsOk s.recipes.learning.limit d →
      exec (.writeRecipe .supervisor i d keep) s = .next (refused s .supervisor 0x50 .wrongMode)) ∧
    (¬ (i ≤ 47 ∧ fieldsOk s.recipes.learning.limit d) →
      exec (.writeRecipe .supervisor i d keep) s = .next (refused s .supervisor 0x50 .outOfRange)) ∧
    exec (.deleteRecipe .supervisor i) s =
      .next (refused s .supervisor 0x51 (if i ≤ 47 then .wrongMode else .outOfRange))) ∧
  ∀ (s : State) (g : Geometry) (i : Nat) (d : RecipeData) (keep : Bool), Idle s .supervisor →
    s.track.geometry = some g → 1 ≤ g.n → g.n ≤ 12 → s.recipes.entries.length = 48 →
    let write := exec (.writeRecipe .supervisor i d keep) s
    let no (r : Reason) := write = .next (refused s .supervisor 0x50 r)
    let inRange := i ≤ 47 ∧ fieldsOk s.recipes.learning.limit d ∧ fractionsOk g.n d
    let storing := s.loader.store ≠ .idle
    (¬ inRange → no .outOfRange) ∧
    (inRange → s.line.mode.noLine = true → no .wrongMode) ∧
    (inRange → s.line.mode.noLine = false → storing → no .busy) ∧
    (inRange → s.line.mode.noLine = false → ¬ storing → 0 < uses s i → no .inUse) ∧
    (inRange → s.line.mode.noLine = false → ¬ storing → uses s i = 0 → GradeElsewhere s i d.grade → no .duplicate) ∧
    (∀ old, inRange → s.line.mode.noLine = false → ¬ storing → uses s i = 0 → ¬ GradeElsewhere s i d.grade →
      s.recipes.entries[i]? = some old →
      write = .next (answered (withEntry s i
        { state := .modified
          data := { d with correction :=
            if keep = false then d.correction else if old.state = .empty then 0 else old.data.correction } })
        .supervisor 0x50 .accepted)) ∧
    let delete := exec (.deleteRecipe .supervisor i) s
    let noDelete (r : Reason) := delete = .next (refused s .supervisor 0x51 r)
    (47 < i → noDelete .outOfRange) ∧
    (i ≤ 47 → s.line.mode.noLine = true → noDelete .wrongMode) ∧
    (i ≤ 47 → s.line.mode.noLine = false → storing → noDelete .busy) ∧
    ∀ old, s.recipes.entries[i]? = some old → i ≤ 47 → s.line.mode.noLine = false → ¬ storing →
      (old.state = .empty → noDelete .notFound) ∧
      (old.state ≠ .empty → 0 < uses s i → noDelete .inUse) ∧
      (old.state ≠ .empty → uses s i = 0 →
        delete = .next (answered (withEntry s i
          { state := .empty
            data := { grade := 0, target := 0, fractions := List.replicate 12 0, soak := 0, maxHold := 0, lossRate := 0
                      windowLow := 0, windowHigh := 0, learningBlock := false, correction := 0 } })
          .supervisor 0x51 .accepted))

/-- SET_LEARNING: its refusals; the four settings are replaced together, and a lowered limit sets each correction outside it to
the nearer bound; no event is raised. -/
def Obligations.SetLearningReplacesAndClamps : Prop :=
  ∀ (s : State) (l : LearningSettings), Idle s .supervisor →
    let inRange := 1 ≤ l.step ∧ l.step ≤ 20 ∧ l.deadBand ≤ 50 ∧ l.limit ≤ 150
    (¬ inRange → exec (.setLearning .supervisor l) s = .next (refused s .supervisor 0x53 .outOfRange)) ∧
    (inRange → s.line.mode = .loading →
      exec (.setLearning .supervisor l) s = .next (refused s .supervisor 0x53 .wrongMode)) ∧
    (inRange → s.line.mode ≠ .loading → s.loader.store ≠ .idle →
      exec (.setLearning .supervisor l) s = .next (refused s .supervisor 0x53 .busy)) ∧
    (inRange → s.line.mode ≠ .loading → s.loader.store = .idle → ∃ es : List Recipe,
      exec (.setLearning .supervisor l) s =
        .next (answered { s with recipes := { entries := es, learning := l } } .supervisor 0x53 .accepted) ∧
      es.length = s.recipes.entries.length ∧
      ∀ (i : Nat) (r : Recipe), s.recipes.entries[i]? = some r → ∃ c : Int,
        es[i]? = some (Recipe.mk r.state { r.data with correction := c }) ∧
        (r.state = .empty ∨ s.recipes.learning.limit ≤ l.limit → c = r.data.correction) ∧
        (r.state ≠ .empty → l.limit < s.recipes.learning.limit →
          c = if (l.limit : Int) < r.data.correction then (l.limit : Int)
            else if r.data.correction < -(l.limit : Int) then -(l.limit : Int) else r.data.correction))

/-! ## Classification and learning -/

namespace Sys2Proof.Stated

/-- The correction after a learning update (R44, R45), none when the deviation lies within the dead band. -/
def updated (l : LearningSettings) (d : RecipeData) (temp : Nat) : Option Int :=
  let midpoint : Int := (((d.windowLow + d.windowHigh) / 2 : Nat) : Int)
  let deviation : Int := (temp : Int) - midpoint
  let clamp (c : Int) : Int := if (l.limit : Int) < c then l.limit else if c < -(l.limit : Int) then -l.limit else c
  if (l.deadBand : Int) < deviation then some (clamp (d.correction - l.step))
  else if deviation < -(l.deadBand : Int) then some (clamp (d.correction + l.step))
  else none

/-- The outcome of a VALID reading (R141). -/
def judged (d : RecipeData) (temp : Nat) : ClassOutcome :=
  if temp < d.windowLow then .diverted .cold
  else if d.windowHigh < temp then .diverted .hot
  else .delivered

/-- The four characters after a preamble pass the check of R211, with a status code and a temperature. -/
def Passes (chars : List PyroChar) (status temp : Nat) : Prop :=
  ∃ st hi lo sum : PyroChar, chars = [st, hi, lo, sum] ∧ (∀ c ∈ chars, c.framingFault = false) ∧
    (0xA5 + st.value.toNat + hi.value.toNat + lo.value.toNat) % 256 = sum.value.toNat ∧ st.value.toNat = status ∧
    status ≤ 2 ∧ hi.value.toNat * 256 + lo.value.toNat = temp ∧ temp ≤ 2000

/-- In `t` the billet that was measured in `s` is classified with an outcome: DIVERT, history, count, HISTORY_ADDED, the
station EMPTY, and the order slot it served FILLED, or returned by the table of R155. -/
def Classified (s t : State) (m : Measuring) (o : ClassOutcome) (temp : Option Nat) : Prop :=
  t.lines.divert = (match o with
    | .delivered => false
    | .diverted _ => true) ∧
  t.push.history = historyWith s.push.history (entryOf m.billet o temp (some m.served)) ∧
  t.push.classCount = counted s.push.classCount ∧ Raised t .supervisor .historyAdded ∧
  t.push.station = none ∧ t.push.measureTimer = .stopped ∧ t.push.late = s.push.late ∧
  (∀ tag rank d k, s.orders.get m.served.slot = .serving tag rank d k →
    (o = .delivered → t.orders.get m.served.slot = .filled tag rank
      { id := m.billet.id, grade := m.billet.grade, charge := m.billet.charge.getD 0, push := m.push
        temperature := temp } ∧ Raised t .press .orderChanged) ∧
    (o ≠ .delivered → (∀ x, s.line.mode ≠ .run ∧ s.line.mode ≠ .drain ∧ x = returned s.line.mode s.line.restartMark
      (.serving tag rank d k) → t.orders.get m.served.slot = x ∧ Raised t .press .orderChanged) ∧
      (s.line.mode = .run ∨ s.line.mode = .drain →
        t.orders.get m.served.slot = .pending tag rank d ∨
          ∃ r, t.push.record = some r ∧ t.orders.get m.served.slot = .serving tag rank d r.number))) ∧
  t = { s with
    lines := { s.lines with divert := t.lines.divert, pyro := t.lines.pyro }
    push := t.push, orders := t.orders, ports := t.ports, recipes := t.recipes }

end Sys2Proof.Stated

/-- PYROMETER_READING, PYROMETER_BAD_FRAME, PYROMETER_CHARACTER_GAP and MEASURE_TIMEOUT: what classifies a measuring billet, and
how; a preamble inside a damaged frame begins the next frame, which the next characters go on with (how the two rows bring
characters is log entry 30's reading, an event with no cause is log entry 3's). -/
def Obligations.MeasuringBilletIsClassified : Prop :=
  (∀ (s : State) (m : Measuring) (temp : Nat), s.push.station = some m → temp ≤ 2000 →
    ∃ t, exec (.pyrometerReading .valid temp) s = .next t ∧ t.lines.pyro = [] ∧
      Classified s t m (judged (s.recipeOf m.billet) temp) (some temp)) ∧
  (∀ (s : State) (status : PyroStatus) (temp : Nat), s.push.station = none ∨ status ≠ .valid ∨ 2000 < temp →
    exec (.pyrometerReading status temp) s = .next { s with lines := { s.lines with pyro := [] } }) ∧
  (∀ s : State, exec .pyrometerCharacterGap s = .next { s with lines := { s.lines with pyro := [] } }) ∧
  (∀ (s : State) (st hi lo sum : PyroChar), s.lines.pyro = [] →
    st.framingFault = true ∨ hi.framingFault = true ∨ lo.framingFault = true ∨ sum.framingFault = true ∨
      (0xA5 + st.value.toNat + hi.value.toNat + lo.value.toNat) % 256 ≠ sum.value.toNat ∨ 2 < st.value.toNat ∨
      2000 < hi.value.toNat * 256 + lo.value.toNat →
    ∃ rest : List PyroChar,
      exec (.pyrometerBadFrame [st, hi, lo, sum]) s = .next { s with lines := { s.lines with pyro := rest } } ∧
      ∃ skipped, [st, hi, lo, sum] = skipped ++ rest ∧ (∀ c ∈ skipped, c.value ≠ 0xA5) ∧
        ∀ c tail, rest = c :: tail → c.value = 0xA5) ∧
  (∀ (s : State) (first : PyroChar) (kept more later : List PyroChar), s.lines.pyro = first :: kept →
    kept.length + more.length = 4 → kept.length < 4 →
    let goesOn := exec (.pyrometerBadFrame (more ++ later)) s
    let ends (pyro : List PyroChar) := goesOn = .next { s with lines := { s.lines with pyro := pyro } }
    let fails := first.framingFault = true ∨ ∀ k temp, ¬ Passes (kept ++ more) k temp
    (∀ m temp, first.framingFault = false → Passes (kept ++ more) 0 temp → s.push.station = some m →
      ∃ t, goesOn = .next t ∧ Classified s t m (judged (s.recipeOf m.billet) temp) (some temp)) ∧
    (∀ k temp, first.framingFault = false → Passes (kept ++ more) k temp → k ≠ 0 ∨ s.push.station = none →
      (∀ c ∈ later, c.value ≠ 0xA5) → ends []) ∧
    (fails → (∀ c ∈ kept ++ more ++ later, c.value ≠ 0xA5) → ends []) ∧
    ∀ skipped next rest, fails → kept ++ more = skipped ++ next :: rest → (∀ c ∈ skipped, c.value ≠ 0xA5) →
      next.value = 0xA5 → rest.length + later.length < 4 → ends (next :: rest ++ later)) ∧
  (∀ (s : State) (m : Measuring), s.push.station = some m → s.push.measureTimer ≠ .stopped →
    ∃ t, exec .measureTimeout s = .next t ∧ t.recipes = s.recipes ∧ t.lines.pyro = s.lines.pyro ∧
      Classified s t m (match s.settings.limits.policy with
        | .divert => .diverted .unmeasured
        | .deliver => .delivered) none)

/-- The learning update of a VALID reading of a READY, unmarked billet: the entry's correction moves one step against a deviation
beyond the dead band, clamped to the limit, and LEARNING_LIMIT is raised when it ends at the limit. -/
def Obligations.ReadingUpdatesTheCorrection : Prop :=
  ∀ (s t : State) (m : Measuring) (r : Recipe) (temp : Nat), s.push.station = some m → temp ≤ 2000 →
    m.billet.isReady = true → m.billet.marked = false → s.recipes.entries[m.billet.recipe]? = some r →
    exec (.pyrometerReading .valid temp) s = .next t →
    let l := s.recipes.learning
    let active := l.on = true ∧ r.data.learningBlock = false
    (¬ active ∨ updated l r.data temp = none → t.recipes = s.recipes) ∧
    (∀ c, active → updated l r.data temp = some c →
      t.recipes = (withEntry s m.billet.recipe (Recipe.mk r.state { r.data with correction := c })).recipes ∧
      (c = (l.limit : Int) ∨ c = -(l.limit : Int) → Raised t .supervisor .learningLimit) ∧
      (c ≠ (l.limit : Int) → c ≠ -(l.limit : Int) →
        t.ports.supervisor.flags.learningLimit = s.ports.supervisor.flags.learningLimit))

/-! ## Line seconds -/

namespace Sys2Proof.Stated

/-- One line second of a billet on a verified track (the table of R17). -/
def aged (d : RecipeData) (b : Billet) : Billet :=
  match b.thermal with
  | .heating => b
  | .soaking k =>
    { b with
      loss := min 1000000 (b.loss + d.lossRate)
      thermal := if k ≤ 1 then .ready 0 else .soaking (k - 1) }
  | .ready h =>
    { b with
      loss := min 1000000 (b.loss + d.lossRate)
      thermal := if d.maxHold < min 65535 (h + 1) then .overheld (min 65535 (h + 1)) else .ready (min 65535 (h + 1)) }
  | .overheld h => { b with thermal := .overheld (min 65535 (h + 1)) }

/-- The track one line second on. -/
def agedTrack (s : State) : List Slot :=
  s.track.slots.map fun x =>
    match x with
    | .billet b => .billet (aged (s.recipeOf b) b)
    | x => x

end Sys2Proof.Stated

/-- LINE_SECOND: every billet of a verified track ages, every PENDING deadline counts down, an order whose deadline reaches 0
becomes EXPIRED with ORDER_CHANGED; on an unverified track no record changes. A billet that becomes READY or OVERHELD brings a
recount: the supply indicator follows the mode and the count, and SUPPLY_CHANGED is raised when it changes. SOAK_REMAINING_ZERO, HOLD_ELAPSED_EXCEEDED and
ORDER_DEADLINE_EXPIRY are the line second in which the named billet or order slot has that outcome (log entry 4). -/
def Obligations.LineSecondAgesTheLine : Prop :=
  (∀ s : State, s.track.lineSecond ≠ .stopped →
      ∃ t, exec .lineSecond s = .next t ∧ PortsQuiet s t ∧ LineKept s t ∧
        t.track = { s.track with
          slots := if s.track.verified then agedTrack s else s.track.slots, lineSecond := .running 1 } ∧
        t.orders.supply =
          (if t.track.slots.map readyIn = s.track.slots.map readyIn then s.orders.supply
            else indicatorIn t s.orders.supply) ∧
        (t.ports.get .press).flags.supplyChanged =
          ((s.ports.get .press).flags.supplyChanged || decide (t.orders.supply ≠ s.orders.supply)) ∧
        ∀ n, match s.orders.get n with
          | .pending tag rank (some d) =>
            if d ≤ 1 then t.orders.get n = .expired tag rank ∧ Raised t .press .orderChanged
            else t.orders.get n = .pending tag rank (some (d - 1)) ∨
              ∃ k, t.orders.get n = .serving tag rank (some (d - 1)) k
          | .pending tag rank none =>
            t.orders.get n = .pending tag rank none ∨ ∃ k, t.orders.get n = .serving tag rank none k
          | x => t.orders.get n = x) ∧
  ((∀ (s : State) (p : Nat) (b : Billet), s.track.lineSecond ≠ .stopped → s.track.verified = true →
      at1 s.track.slots p = some (.billet b) → b.thermal = .soaking 1 →
      ∃ t, exec (.soakRemainingZero p) s = .next t ∧ exec .lineSecond s = .next t ∧
        at1 t.track.slots p = some (.billet
          { b with thermal := .ready 0, loss := min 1000000 (b.loss + (s.recipeOf b).lossRate) })) ∧
    (∀ (s : State) (p h : Nat) (b : Billet), s.track.lineSecond ≠ .stopped → s.track.verified = true →
      at1 s.track.slots p = some (.billet b) → b.thermal = .ready h → (s.recipeOf b).maxHold ≤ h → h < 65535 →
      ∃ t, exec (.holdElapsedExceeded p) s = .next t ∧ exec .lineSecond s = .next t ∧
        at1 t.track.slots p = some (.billet
          { b with thermal := .overheld (h + 1), loss := min 1000000 (b.loss + (s.recipeOf b).lossRate) })) ∧
    (∀ (s : State) (n : SlotName) (tag rank : Nat), s.track.lineSecond ≠ .stopped →
      s.orders.get n = .pending tag rank (some 1) →
      ∃ t, exec (.orderDeadlineExpiry n) s = .next t ∧ exec .lineSecond s = .next t ∧
        t.orders.get n = .expired tag rank ∧ Raised t .press .orderChanged))

/-! ## Configuration -/

namespace Sys2Proof.Stated

/-- The line is in neither of the two modes that take a geometry and a reach map (R201, R202). -/
def NotConfiguring (s : State) : Prop := s.line.mode ≠ .standby ∧ ∀ c, s.line.mode ≠ .unconfigured c

/-- A geometry would drop a FAIL_CLOSED crosspoint or a LOCKED channel (R201). -/
def DropsLockout (s : State) (g : Geometry) : Prop :=
  (∃ x ∈ s.matrix, x.state = .failClosed ∧ (g.ratings.length < Inv.num x.inverter ∨ g.coils.length < x.coil)) ∨
    ∃ u f, (s.channels.get u).state = .locked f ∧ g.ratings.length < Inv.num u

/-- Every slot is GAP or UNDECLARED and the cradle is empty. -/
def Unoccupied (s : State) : Prop := (∀ b, Slot.billet b ∉ s.track.slots) ∧ s.track.cradle = none

/-- A store runs or a push is in flight. -/
def StoringOrPushing (s : State) : Prop := s.loader.store ≠ .idle ∨ s.push.record ≠ none

/-- A recipe entry under a geometry of n coils (R39). -/
def rejudged (r : Recipe) (passes : Prop) [Decidable passes] : Recipe :=
  match r.state with
  | .empty => r
  | .invalid => if passes then { r with state := .modified } else r
  | _ => if passes then r else { r with state := .invalid }

/-- The mode after a configuration leaves UNCONFIGURED (R168, R178); STANDBY stays. -/
def configuredMode (s : State) : Mode :=
  match s.line.mode with
  | .unconfigured _ => if s.lines.lineStop then .faultStop else .standby
  | m => m

/-- The range check of SET_REACH; the part that reads the geometry passes while none is in force (R189, R202; log
entry 53). -/
def ReachOk (s : State) (map : List CrosspointName) : Prop :=
  map.length ≤ 48 ∧ map.Nodup ∧
    ∀ g, s.track.geometry = some g → ∀ x ∈ map,
      1 ≤ x.inverter ∧ x.inverter ≤ g.ratings.length ∧ 1 ≤ x.coil ∧ x.coil ≤ g.coils.length

end Sys2Proof.Stated

/-- SET_LINE: its checks in order, and what the new geometry leaves of the track, the recipes, the coils, the crosspoints and
the channels. -/
def Obligations.SetLineTakesAGeometry : Prop :=
  ∀ (s : State) (g : Geometry), Idle s .supervisor →
    let run := exec (.setLine .supervisor g) s
    let no (r : Reason) := run = .next (refused s .supervisor 0x60 r)
    (¬ GeometryOk g → no .outOfRange) ∧
    (GeometryOk g → NotConfiguring s → no .wrongMode) ∧
    (GeometryOk g → ¬ NotConfiguring s → StoringOrPushing s → no .busy) ∧
    (GeometryOk g → ¬ NotConfiguring s → ¬ StoringOrPushing s → ¬ Unoccupied s → no .wrongMode) ∧
    (GeometryOk g → ¬ NotConfiguring s → ¬ StoringOrPushing s → Unoccupied s → DropsLockout s g → no .inUse) ∧
    (GeometryOk g → ¬ NotConfiguring s → ¬ StoringOrPushing s → Unoccupied s → ¬ DropsLockout s g →
      (∀ r ∈ s.link.rounds, r.forStart = false) →
      ∃ t, run = .next t ∧ Answers s t .supervisor 0x60 .accepted ∧
        t.track = { s.track with
          geometry := some g
          slots := List.replicate g.positions (if s.track.verified then .gap else .undeclared)
          unattributed := s.track.unattributed.take g.coils.length ++
            List.replicate (g.coils.length - s.track.unattributed.length) 0 } ∧
        t.recipes.learning = s.recipes.learning ∧ t.recipes.entries.length = s.recipes.entries.length ∧
        (∀ (i : Nat) (r : Recipe), s.recipes.entries[i]? = some r → ∃ y, t.recipes.entries[i]? = some y ∧
          (fractionsOk g.coils.length r.data → y = rejudged r True) ∧
          (¬ fractionsOk g.coils.length r.data → r.data.fractions.length = 12 →
            y = rejudged r False)) ∧
        (∀ j, t.coil j =
          if 1 ≤ j ∧ j ≤ g.coils.length then
            (match s.coil j with
              | some c => some { c with demand := 0, lead := none }
              | none => some { state := .unpowered, disable := false, demand := 0, lead := none })
          else none) ∧
        t.alloc.queues = ⟨[], [], [], []⟩ ∧
        t.matrix = (s.matrix.filter fun x =>
          decide (Inv.num x.inverter ≤ g.ratings.length) && decide (x.coil ≤ g.coils.length)) ∧
        (∀ u, let c := s.channels.get u
          t.channels.get u =
            if Inv.num u ≤ g.ratings.length then (if c.state = .absent then { c with state := .unreached } else c)
            else (if c.state = .absent then c else Channel.reset)) ∧
        (∀ u, Inv.num u ≤ g.ratings.length → (s.channels.get u).state = .absent → s.link.startMark.get u = true →
          { owner := u, command := .stopOutput, purpose := .startStop } ∈ t.link.queue) ∧
        t.link.pollTimer = (match s.link.pollTimer with
          | .stopped => .running s.settings.timers.pollPeriod
          | x => x) ∧
        t.line.mode = configuredMode s ∧ (s.line.mode ≠ t.line.mode → ModeChanged t) ∧
        t.settings = s.settings ∧ t.loader = s.loader ∧ t.lines.feedback = s.lines.feedback)

/-- SET_REACH, the geometry in force meeting the range check of SET_LINE (the statements InvariantsHoldAtReset and
EepromStaysCanonical): its checks in order; crosspoints in both maps keep their records, each one the map adds takes its state
from its feedback, the others are gone, and there is one record for each crosspoint of the map. An added crosspoint that reads
closed locks its coil and its channel. That the count and the repeats are still tested while no geometry is in force is the
model's choice (log entry 53). -/
def Obligations.SetReachTakesAMap : Prop :=
  ∀ (s : State) (map : List CrosspointName), Idle s .supervisor → GeometryLawful s →
    let run := exec (.setReach .supervisor map) s
    let no (r : Reason) := run = .next (refused s .supervisor 0x61 r)
    let dropped := ∃ x ∈ s.matrix, x.state = .failClosed ∧ { inverter := Inv.num x.inverter, coil := x.coil } ∉ map
    (¬ ReachOk s map → no .outOfRange) ∧
    (ReachOk s map → NotConfiguring s ∨ s.track.geometry = none → no .wrongMode) ∧
    (ReachOk s map → ¬ NotConfiguring s → s.track.geometry ≠ none → s.loader.store ≠ .idle → no .busy) ∧
    (ReachOk s map → ¬ NotConfiguring s → s.track.geometry ≠ none → s.loader.store = .idle → dropped → no .inUse) ∧
    (ReachOk s map → ¬ NotConfiguring s → s.track.geometry ≠ none → s.loader.store = .idle → ¬ dropped →
      ∃ t, run = .next t ∧ Answers s t .supervisor 0x61 .accepted ∧
        (∀ u j, { inverter := Inv.num u, coil := j } ∉ map → t.crosspoint u j = none) ∧
        (∀ u j x, { inverter := Inv.num u, coil := j } ∈ map → s.crosspoint u j = some x →
          t.crosspoint u j = some x) ∧
        (∀ u j, { inverter := Inv.num u, coil := j } ∈ map → s.crosspoint u j = none →
          t.crosspoint u j = some
            { inverter := u, coil := j, drive := false, timer := .stopped, drop := false
              state := if s.feedbackClosed u j then .failClosed else .opened } ∧
          (s.feedbackClosed u j = true → Raised t .supervisor .crosspointFault ∧
            ∀ c, t.coil j = some c → c.state = .locked)) ∧
        (∀ u j, { inverter := Inv.num u, coil := j } ∈ map → s.crosspoint u j = none → s.feedbackClosed u j = true →
          (∀ f, (s.channels.get u).state = .locked f → (t.channels.get u).state = .locked f) ∧
          ((s.channels.get u).state = .idle → (t.channels.get u).state = .locked .idle) ∧
          ((s.channels.get u).state = .unreached → (t.channels.get u).state = .locked .unreached) ∧
          (∀ k, (s.channels.get u).state = .faulted k → (∀ x ∈ s.matrix, x.inverter = u → x.drive = false) →
            (t.channels.get u).state = .locked (.faulted k)) ∧
          ((s.channels.get u).state = .idle ∨ (s.channels.get u).state = .unreached →
            Raised t .supervisor .channelFault)) ∧
        ((∀ k c v, s.coil k = some c → c.state ≠ .assigned v) →
          ∀ u, (∀ j, { inverter := Inv.num u, coil := j } ∈ map → s.crosspoint u j = none →
            s.feedbackClosed u j = false) → t.channels.get u = s.channels.get u) ∧
        (t.matrix.map fun x => (x.inverter, x.coil)).Nodup ∧
        t.matrix.length = map.length ∧ t.track = s.track ∧ t.recipes = s.recipes ∧ t.settings = s.settings ∧
        t.loader = s.loader)

namespace Sys2Proof.Stated

/-- The settings of SET_TIMERS lie in range (R203). -/
def TimersOk (t : TimerSettings) : Prop :=
  1 ≤ t.slice ∧ t.slice ≤ 120 ∧ 50 ≤ t.pollPeriod ∧ t.pollPeriod ≤ 1000 ∧ 5 ≤ t.replyTimeout ∧ t.replyTimeout ≤ 50 ∧
    1 ≤ t.lostThreshold ∧ t.lostThreshold ≤ 8 ∧ 1 ≤ t.rejectLimit ∧ t.rejectLimit ≤ 8 ∧ 20 ≤ t.retryDelay ∧
    t.retryDelay ≤ 1000 ∧ 100 ≤ t.stopConfirm ∧ t.stopConfirm ≤ 5000 ∧ 20 ≤ t.feedbackTimeout ∧
    t.feedbackTimeout ≤ 500 ∧ 1 ≤ t.pushTimeout ∧ t.pushTimeout ≤ 30 ∧ 50 ≤ t.measureTimeout ∧
    t.measureTimeout ≤ 5000 ∧ (t.pressSilence = 0 ∨ (500 ≤ t.pressSilence ∧ t.pressSilence ≤ 10000)) ∧
    1 ≤ t.holdLimit ∧ t.holdLimit ≤ 240

/-- The classes and bounds of SET_URGENCY_MAP lie in range (R54, R203). -/
def UrgencyOk (u : UrgencyMap) : Prop :=
  (∀ k ∈ [u.heating.band0, u.heating.band1, u.heating.band2, u.heating.band3, u.holding.band0, u.holding.band1,
      u.holding.band2, u.holding.band3], k ≤ 3) ∧ u.b1 < u.b2 ∧ u.b2 < u.b3 ∧ u.b3 ≤ 31

/-- The class a QUEUED coil moves to under a map, none for a coil that stays as it is. -/
def movesTo (s : State) (u : UrgencyMap) (j : Nat) : Option Nat :=
  match s.coil j with
  | some c =>
    (match c.state, c.lead with
      | .queued k, some l => if classUnder u s.positions l = k then none else some (classUnder u s.positions l)
      | _, _ => none)
  | none => none

end Sys2Proof.Stated

/-- SET_TIMERS and SET_URGENCY_MAP: their checks in order, and what the new settings change at once. -/
def Obligations.SettingsAreReplaced : Prop :=
  (∀ (s : State) (x : TimerSettings), Idle s .supervisor →
    let run := exec (.setTimers .supervisor x) s
    let no (r : Reason) := run = .next (refused s .supervisor 0x62 r)
    (¬ TimersOk x → no .outOfRange) ∧
    (TimersOk x → s.line.mode = .loading → no .wrongMode) ∧
    (TimersOk x → s.line.mode ≠ .loading → s.loader.store ≠ .idle → no .busy) ∧
    (TimersOk x → s.line.mode ≠ .loading → s.loader.store = .idle →
      run = .next (answered { s with
        settings := { s.settings with timers := x }
        orders := { s.orders with
          silence := if x.pressSilence = 0 then .stopped
            else if s.settings.timers.pressSilence = 0 then .running x.pressSilence else s.orders.silence } }
        .supervisor 0x62 .accepted))) ∧
  (∀ (s : State) (u : UrgencyMap), Idle s .supervisor →
    let run := exec (.setUrgencyMap .supervisor u) s
    let no (r : Reason) := run = .next (refused s .supervisor 0x63 r)
    (¬ UrgencyOk u → no .outOfRange) ∧
    (UrgencyOk u → s.line.mode = .loading → no .wrongMode) ∧
    (UrgencyOk u → s.line.mode ≠ .loading → s.loader.store ≠ .idle → no .busy) ∧
    (UrgencyOk u → s.line.mode ≠ .loading → s.loader.store = .idle → ∃ (cs : List Coil) (qs : Queues),
      run = .next (answered { s with
        settings := { s.settings with urgency := u }
        alloc := { s.alloc with coils := cs, queues := qs } } .supervisor 0x63 .accepted) ∧
      cs.length = s.alloc.coils.length ∧
      (∀ j c, s.coil j = some c → at1 cs j = some
        (match movesTo s u j with
          | some d => { c with state := .queued d }
          | none => c)) ∧
      ∀ k ≤ 3, qs.get k = (s.alloc.queues.get k).filter (fun j => (movesTo s u j).isNone) ++
        (descending s.alloc.coils.length).filter fun j => movesTo s u j == some k))

namespace Sys2Proof.Stated

/-- Committed power: the sum of the values of R62. -/
def committedPower (s : State) : Nat := (inverters.map fun u => countedFor (s.channels.get u)).sum

/-- A line limit of 0 to 8000 kW (R69); that it is a multiple of 10 kW is the model's reading (log entry 23). -/
def LimitOk (l : Nat) : Prop := l ≤ 8000 ∧ l % 10 = 0

/-- The settings after the line limit in the long form lie in range (R53, R161, R203). -/
def LimitSettingsOk (x : LimitSettings) : Prop :=
  10 ≤ x.threshold ∧ x.threshold ≤ 5000 ∧ 1 ≤ x.window ∧ x.window ≤ 8 ∧ x.lowMark < x.highMark ∧ x.highMark ≤ x.window

/-- A line limit taken (R69, R71): in force when it covers committed power, at once or by the end of the event; held as the
pending limit otherwise, the limit in force kept. -/
def LimitTaken (s t : State) (l : Nat) : Prop :=
  (committedPower s ≤ l → t.alloc.effective = l ∧ t.alloc.pendingLimit = none) ∧
    (l < committedPower s →
      (t.alloc.effective = l ∧ t.alloc.pendingLimit = none ∧ committedPower t ≤ l) ∨
        (t.alloc.effective = s.alloc.effective ∧ t.alloc.pendingLimit = some l ∧ l < committedPower t))

/-- The press port after the supply indicator is set: SUPPLY_CHANGED is raised when the indicator changes (R162). -/
def supplyTold (s : State) (supply : Supply) : PortRec :=
  let r := s.ports.press
  { r with flags := { r.flags with supplyChanged := r.flags.supplyChanged || decide (supply ≠ s.orders.supply) } }

/-- A candidate of the reduction plan (R70): a grant not released, and CLOSING, STARTING or ENERGIZED. -/
def Candidate (s : State) (u : Inv) (g : Grant) : Prop :=
  s.alloc.grants.get u = some g ∧ g.released = false ∧
    ((s.channels.get u).state = .closing ∨ (s.channels.get u).state = .starting ∨ (s.channels.get u).state = .energized)

/-- The planned value of a channel: its grant setpoint in CLOSING, else the deferred, the commanded or the accepted setpoint,
whichever is the first present (R70; log entry 14). -/
def plannedFor (c : Channel) : Nat :=
  if c.state = .closing then c.grantSetpoint
  else
    match c.deferred, c.commanded with
    | some d, _ => d
    | none, some k => k
    | none, none => c.accepted

/-- The floor of a candidate (R70). -/
def floorFor (s : State) (u : Inv) : Nat :=
  min (plannedFor (s.channels.get u)) (fivePercent (s.inverterRating u))

/-- The sum of a quantity over the candidates, with what FAULTED(NO_STOP) channels count (R70). -/
def overCandidates (s : State) (f : Inv → Nat) : Nat :=
  (inverters.map fun u =>
    (match s.alloc.grants.get u, (s.channels.get u).state with
      | some g, .closing | some g, .starting | some g, .energized => if g.released then 0 else f u
      | _, _ => 0) + (if (s.channels.get u).state = .faulted .noStop then (s.channels.get u).accepted else 0)).sum

/-- A candidate whose grant the plan has released. -/
def Dropped (s t : State) (u : Inv) (g : Grant) : Prop :=
  Candidate s u g ∧ t.alloc.grants.get u = some { g with released := true }

/-- A candidate that keeps its grant. -/
def Kept (s t : State) (u : Inv) (g : Grant) : Prop := Candidate s u g ∧ t.alloc.grants.get u = some g

/-- The sum of a quantity over the candidates that keep their grants, with what FAULTED(NO_STOP) channels count (R70). -/
def overKept (s t : State) (f : Inv → Nat) : Nat :=
  overCandidates s fun u => if (t.alloc.grants.get u).any Grant.released then 0 else f u

/-- The class of a granted coil, 0 with no lead billet (R54). -/
def grantClass (s : State) (g : Grant) : Nat :=
  match s.coil g.coil with
  | some c => (match c.lead with
    | some l => classUnder s.settings.urgency s.positions l
    | none => 0)
  | none => 0

end Sys2Proof.Stated

/-- SET_LINE_LIMIT in its two forms: the checks in order (log entry 23), the limit taken, and the settings of the long form
replaced. A limit that covers committed power changes nothing else, but for the allocation pass that a raise brings (a queued
coil with a closed drive in its column is log entry 15's). The long form tests the joining conditions of every UNPOWERED coil
under the new threshold, in descending coil number, an allocation pass after a joining, and QUEUED coils stay until they are
granted; the supply indicator is set by the new window and marks, SUPPLY_CHANGED raised when it changes. -/
def Obligations.LineLimitIsTaken : Prop :=
  ∀ (s : State) (l : Nat) (x : LimitSettings), Idle s .supervisor →
    let short := exec (.setLineLimit .supervisor l) s
    let long := exec (.setLineLimitLong .supervisor l x) s
    let no (r : Reason) := Host.Outcome.next (refused s .supervisor 0x64 r)
    (¬ LimitOk l → short = no .outOfRange) ∧
    (¬ (LimitOk l ∧ LimitSettingsOk x) → long = no .outOfRange) ∧
    (LimitOk l → s.line.mode = .loading → short = no .wrongMode ∧ (LimitSettingsOk x → long = no .wrongMode)) ∧
    (LimitOk l → s.line.mode ≠ .loading → s.loader.store ≠ .idle →
      short = no .busy ∧ (LimitSettingsOk x → long = no .busy)) ∧
    (LimitOk l → s.line.mode ≠ .loading → s.loader.store = .idle →
      (committedPower s ≤ l →
        let inForce : State := { s with alloc := { s.alloc with effective := l, pendingLimit := none } }
        short = .next (answered (if s.alloc.effective < l then afterPass inForce else inForce) .supervisor 0x64
          .accepted)) ∧
      (∃ t, short = .next t ∧ Answers s t .supervisor 0x64 .accepted ∧ LimitTaken s t l ∧
        t.settings = s.settings ∧ t.track = s.track ∧ t.recipes = s.recipes ∧ t.loader = s.loader ∧
        t.lines = s.lines ∧ t.line = s.line) ∧
      (LimitSettingsOk x → ∃ t, long = .next t ∧ Answers s t .supervisor 0x64 .accepted ∧ LimitTaken s t l ∧
        t.settings = { s.settings with limits := x } ∧ t.track = s.track ∧ t.recipes = s.recipes ∧
        t.loader = s.loader ∧ t.lines = s.lines ∧ t.line = s.line ∧
        let replaced : State := { s with settings := { s.settings with limits := x } }
        let supply := indicatorIn replaced s.orders.supply
        t.orders = { s.orders with supply := supply } ∧
        t.ports.press = supplyTold s supply ∧
        (∀ j k, joinsAs replaced j = some k → ∃ y, t.coil j = some y ∧
          ((y.state = .queued k ∧ j ∈ t.alloc.queues.get k) ∨ ∃ u, y.state = .assigned u)) ∧
        (∀ j c k, s.coil j = some c → c.state = .queued k → ∃ y, t.coil j = some y ∧
          (y.state = .queued k ∨ ∃ u, y.state = .assigned u)) ∧
        (t.alloc.pendingLimit = some l →
          t.alloc.coils = (joinedAll replaced).alloc.coils ∧ t.alloc.queues = (joinedAll replaced).alloc.queues)) ∧
      (LimitSettingsOk x → committedPower s ≤ l →
        let inForce : State := { s with
          settings := { s.settings with limits := x }
          alloc := { s.alloc with effective := l, pendingLimit := none } }
        let joined := joinedAll inForce
        let supply := indicatorIn inForce s.orders.supply
        long = .next (answered
          { (if s.alloc.effective < l ∨ someJoined s joined = true then afterPass joined else joined) with
            orders := { s.orders with supply := supply }
            ports := s.ports.set .press (supplyTold s supply) } .supervisor 0x64 .accepted)))

/-- The reduction plan: while a pending limit lies below the floors it releases the candidate with the lowest class, among equal
classes the one granted last, until the floors fit or none remains; the planned values of those that stay are then cut down to
the limit, the highest-numbered inverter first, none below its floor. What a planned value is, is log entry 14's reading. -/
def Obligations.ReductionPlanMeetsTheLimit : Prop :=
  ∀ (s : State) (l : Nat), Idle s .supervisor → LimitOk l → s.line.mode ≠ .loading → s.loader.store = .idle →
    l < committedPower s →
    (∀ u g, Candidate s u g → (s.channels.get u).deferred ≠ none → (s.channels.get u).commanded ≠ none) →
    ∃ t, exec (.setLineLimit .supervisor l) s = .next t ∧
      (l < overCandidates s (floorFor s) →
        ∀ u g, Candidate s u g →
          (∀ v h, Candidate s v h → v ≠ u →
            grantClass s g < grantClass s h ∨ (grantClass s g = grantClass s h ∧ h.number < g.number)) →
          t.alloc.grants.get u = some { g with released := true }) ∧
      (∀ u g, Candidate s u g → Dropped s t u g ∨ Kept s t u g) ∧
      (∀ u v g h, Dropped s t u g → Kept s t v h →
        grantClass s g < grantClass s h ∨ (grantClass s g = grantClass s h ∧ h.number ≤ g.number)) ∧
      (overKept s t (floorFor s) ≤ l ∨ ∀ u g, ¬ Kept s t u g) ∧
      (∀ u g, Dropped s t u g →
        (∀ v h, Dropped s t v h → v ≠ u →
          grantClass s h < grantClass s g ∨ (grantClass s h = grantClass s g ∧ g.number < h.number)) →
        l < overKept s t (floorFor s) + floorFor s u) ∧
      (overKept s t (floorFor s) ≤ l →
        (∀ u g, Kept s t u g → (t.channels.get u).state = (s.channels.get u).state ∧
          floorFor s u ≤ plannedFor (t.channels.get u) ∧
          plannedFor (t.channels.get u) ≤ plannedFor (s.channels.get u)) ∧
        overKept s t (fun u => plannedFor (t.channels.get u)) =
          min l (overKept s t fun u => plannedFor (s.channels.get u)) ∧
        ∀ u v g h, Kept s t u g → Kept s t v h → Inv.num u < Inv.num v →
          plannedFor (t.channels.get u) < plannedFor (s.channels.get u) →
          plannedFor (t.channels.get v) = floorFor s v) ∧
      (overCandidates s (floorFor s) ≤ l →
        (∀ u g, Candidate s u g → t.alloc.grants.get u = some g ∧ (t.channels.get u).state = (s.channels.get u).state ∧
          floorFor s u ≤ plannedFor (t.channels.get u) ∧
          plannedFor (t.channels.get u) ≤ plannedFor (s.channels.get u)) ∧
        overCandidates s (fun u => plannedFor (t.channels.get u)) =
          min l (overCandidates s fun u => plannedFor (s.channels.get u)) ∧
        ∀ u v g h, Candidate s u g → Candidate s v h → Inv.num u < Inv.num v →
          plannedFor (t.channels.get u) < plannedFor (s.channels.get u) →
          plannedFor (t.channels.get v) = floorFor s v)

/-! ## Coils and lockouts -/

namespace Sys2Proof.Stated

/-- A coil with a changed record. -/
def withCoil (s : State) (j : Nat) (c : Coil) : State :=
  { s with alloc := { s.alloc with coils := s.alloc.coils.set (j - 1) c } }

/-- The joining conditions (R56) hold for a coil once it is UNPOWERED. -/
def Joins (s : State) (j : Nat) (c : Coil) : Prop :=
  s.line.mode.heating = true ∧ s.settings.limits.threshold ≤ c.demand ∧ c.lead ≠ none ∧
    ∃ u x, s.crosspoint u j = some x ∧ x.state ≠ .failOpen ∧ x.state ≠ .failClosed

end Sys2Proof.Stated

/-- DISABLE_COIL and ENABLE_COIL: their checks, the disable setting, and the coil by its state. A coil that meets the joining
conditions once it is enabled joins the tail of the queue of its class, and an allocation pass follows (a queued coil with a
closed drive in its column is log entry 15's). -/
def Obligations.CoilsAreDisabledAndEnabled : Prop :=
  ∀ (s : State) (j : Nat), Idle s .supervisor →
    (∀ g, s.track.geometry = some g → j = 0 ∨ g.coils.length < j →
      exec (.disableCoil .supervisor j) s = .next (refused s .supervisor 0x70 .outOfRange) ∧
        exec (.enableCoil .supervisor j) s = .next (refused s .supervisor 0x71 .outOfRange)) ∧
    (s.line.mode.noLine = true → s.track.geometry = none →
      exec (.disableCoil .supervisor j) s = .next (refused s .supervisor 0x70 .wrongMode) ∧
        exec (.enableCoil .supervisor j) s = .next (refused s .supervisor 0x71 .wrongMode)) ∧
    ∀ g c, s.track.geometry = some g → 1 ≤ j → j ≤ g.coils.length → s.line.mode.noLine = false → s.coil j = some c →
      let disable := exec (.disableCoil .supervisor j) s
      let enable := exec (.enableCoil .supervisor j) s
      (c.disable = true → disable = .next (answered s .supervisor 0x70 .accepted)) ∧
      (c.disable = false →
        (c.state = .unpowered →
          disable = .next (answered (withCoil s j { c with state := .disabled, disable := true }) .supervisor 0x70
            .accepted)) ∧
        (∀ k, c.state = .queued k → ∃ q : Queues,
          (∀ i ≤ 3, q.get i = (s.alloc.queues.get i).filter (· != j)) ∧
          disable = .next (answered
            { withCoil s j { c with state := .disabled, disable := true } with
              alloc := { (withCoil s j { c with state := .disabled, disable := true }).alloc with queues := q } }
            .supervisor 0x70 .accepted)) ∧
        (∀ u h, c.state = .assigned u → s.alloc.grants.get u = some h → QueuedOnly s j c →
          ∃ t, disable = .next t ∧ Answers s t .supervisor 0x70 .accepted ∧
            t.coil j = some { c with disable := true } ∧ t.alloc.grants.get u = some { h with released := true } ∧
            t.line = s.line ∧ TrackKept s t) ∧
        (c.state = .locked →
          disable = .next (answered (withCoil s j { c with disable := true }) .supervisor 0x70 .accepted))) ∧
      (c.state ≠ .disabled →
        enable = .next (answered (withCoil s j { c with disable := false }) .supervisor 0x71 .accepted)) ∧
      (c.state = .disabled → ¬ Joins s j c →
        enable = .next (answered (withCoil s j { c with state := .unpowered, disable := false }) .supervisor 0x71
          .accepted)) ∧
      (c.state = .disabled → Joins s j c → QueuedOnly s j c →
        ∃ t, enable = .next t ∧ Answers s t .supervisor 0x71 .accepted ∧
          ∃ y, t.coil j = some y ∧ y.disable = false ∧ ((∃ k, y.state = .queued k) ∨ ∃ u, y.state = .assigned u)) ∧
      (c.state = .disabled →
        let freed := withCoil s j { c with state := .unpowered, disable := false }
        ∀ k, joinsAs freed j = some k →
          enable = .next (answered (afterPass (joinedIf freed j)) .supervisor 0x71 .accepted))

namespace Sys2Proof.Stated

/-- The state of a channel is FAULTED or UNREACHED. -/
def Clearable (s : State) (u : Inv) : Prop :=
  (s.channels.get u).state = .unreached ∨ ∃ k, (s.channels.get u).state = .faulted k

/-- The channel numbers CLEAR_CHANNEL takes: 1..4, and within m where a geometry is in force (R100, R189; log entry 53). -/
def NumberOk (s : State) (n : Nat) : Prop :=
  1 ≤ n ∧ n ≤ 4 ∧ ∀ g, s.track.geometry = some g → n ≤ g.ratings.length

/-- Another crosspoint of a row is FAIL_CLOSED. -/
def RowLocked (s : State) (u : Inv) (j : Nat) : Prop :=
  ∃ y ∈ s.matrix, y.inverter = u ∧ y.coil ≠ j ∧ y.state = .failClosed

/-- Another crosspoint of a column is FAIL_CLOSED. -/
def ColumnLocked (s : State) (u : Inv) (j : Nat) : Prop :=
  ∃ y ∈ s.matrix, y.coil = j ∧ y.inverter ≠ u ∧ y.state = .failClosed

end Sys2Proof.Stated

/-- CLEAR_CHANNEL: its checks in order; the clear sequence starts with CLEAR_FAULT in the link queue, or held behind the
channel's start-up stop, and serves a DISCOVERY read of the channel that waits (log entry 20). That a channel outside 1..4 is
refused OUT_OF_RANGE also while no geometry is in force is the model's choice (log entry 53). -/
def Obligations.ClearSequenceStarts : Prop :=
  ∀ (s : State) (n : Nat), Idle s .supervisor →
    let run := exec (.clearChannel .supervisor n) s
    let no (r : Reason) := run = .next (refused s .supervisor 0x72 r)
    (¬ NumberOk s n → no .outOfRange) ∧
    ∀ u, Inv.num u = n → NumberOk s n →
      let c := s.channels.get u
      let modeOk := s.line.mode = .standby ∨ s.line.mode = .faultStop
      (¬ modeOk → no .wrongMode) ∧
      (modeOk → ¬ Clearable s u → no .notFound) ∧
      (modeOk → Clearable s u → c.clearing = true → no .busy) ∧
      (modeOk → Clearable s u → c.clearing = false →
        let entry : LinkEntry := { owner := u, command := .clearFault, purpose := .clear }
        let waits := s.link.queue.any fun x => decide (x.owner = u) && decide (x.purpose = .startStop)
        run = .next (answered { s with
          channels := s.channels.set u { c with clearing := true }
          link := { s.link with
            queue := if waits then s.link.queue
              else s.link.queue.filter (fun x => decide (x.owner ≠ u)) ++ [entry]
            held := if waits then s.link.held.set u (some entry) else s.link.held
            discovery := match s.link.discovery.get u with
              | .queued | .wanted => s.link.discovery.set u .byClear
              | _ => s.link.discovery } } .supervisor 0x72 .accepted))

/-- RELEASE_LOCKOUT: its checks in order, with a geometry in force and without one; the crosspoint is OPEN and usable again;
with no other FAIL_CLOSED in its row the channel leaves LOCKED or drops a pending cause WELDED, with none in its column the
coil leaves LOCKED (log entries 17, 22, 42). That a channel which is not LOCKED keeps its pending WELDED while its row has
another FAIL_CLOSED is the model's choice (log entry 44). -/
def Obligations.LockoutIsReleased : Prop :=
  (∀ (s : State) (i j : Nat), Idle s .supervisor → s.track.geometry = none → s.line.mode.noLine = true →
    exec (.releaseLockout .supervisor { inverter := i, coil := j }) s = .next (refused s .supervisor 0x73 .wrongMode)) ∧
  ∀ (s : State) (g : Geometry) (u : Inv) (i j : Nat), Idle s .supervisor → s.track.geometry = some g →
    let run := exec (.releaseLockout .supervisor { inverter := i, coil := j }) s
    let no (r : Reason) := run = .next (refused s .supervisor 0x73 r)
    let inRange := 1 ≤ i ∧ i ≤ g.ratings.length ∧ g.ratings.length ≤ 4 ∧ 1 ≤ j ∧ j ≤ g.coils.length
    (i = 0 ∨ g.ratings.length < i ∨ j = 0 ∨ g.coils.length < j → no .outOfRange) ∧
    (inRange → s.line.mode.noLine = true → no .wrongMode) ∧
    (inRange → s.line.mode.noLine = false → Inv.num u = i →
      (s.crosspoint u j = none → no .notFound) ∧
      ∀ x, s.crosspoint u j = some x →
        (x.state ≠ .failOpen → x.state ≠ .failClosed → no .notFound) ∧
        (x.state = .failOpen ∨ x.state = .failClosed → s.feedbackClosed u j = true → no .notUsable) ∧
        (x.state = .failOpen ∨ x.state = .failClosed → s.feedbackClosed u j = false →
          (∃ t, run = .next t ∧ Answers s t .supervisor 0x73 .accepted ∧ TrackKept s t ∧ t.line = s.line ∧
            ∃ y, t.crosspoint u j = some y ∧ y.drop = x.drop ∧ (y.state = .opened ∨ y.state = .closing)) ∧
          (s.line.mode.heating = false → ∃ t, run = .next t ∧ t.crosspoint u j = some { x with state := .opened } ∧
            (x.state = .failOpen → t.channels = s.channels ∧ t.alloc = s.alloc) ∧
            (x.state = .failClosed →
              let c := s.channels.get u
              (RowLocked s u j → t.channels.get u = c) ∧
              (¬ RowLocked s u j → (∀ f, c.state ≠ .locked f) →
                t.channels.get u = { c with
                  pendingWelded := false, lateCause := none
                  pendingCause := if c.pendingCause = none then c.lateCause else c.pendingCause }) ∧
              (∀ f, ¬ RowLocked s u j → c.state = .locked f →
                (t.channels.get u).coil = none ∧ (t.channels.get u).clearing = c.clearing ∧
                (t.channels.get u).state = (match f with
                  | .idle => .idle
                  | .unreached => .unreached
                  | .faulted k => .faulted k)) ∧
              (∀ v, v ≠ u → t.channels.get v = s.channels.get v) ∧
              ∀ k y, s.coil k = some y → t.coil k = some
                { y with
                  state := if k = j ∧ y.state = .locked then t.coil j |>.map Coil.state |>.getD .locked else y.state } ∧
                (k = j → y.state = .locked →
                  (ColumnLocked s u j → t.coil j = some y) ∧
                  (¬ ColumnLocked s u j → t.coil j = some
                    { y with state := if y.disable then .disabled else .unpowered }))))))

/-! ## The stored configuration -/

namespace Sys2Proof.Stated

/-- The configuration of a state in ranges a store can write, on a canonical EEPROM list (log entry 8): geometry, crosspoints
without repetition, the settings, the line limit to be written, the learning settings, and 48 recipe entries with distinct
grades. -/
def Storable (s : State) (g : Geometry) : Prop :=
  Memory.wf s.loader.eeprom = true ∧ s.track.geometry = some g ∧ GeometryOk g ∧ s.matrix.length ≤ 48 ∧
    (s.matrix.map fun x => (x.inverter, x.coil)).Nodup ∧
    (∀ x ∈ s.matrix, Inv.num x.inverter ≤ g.ratings.length ∧ 1 ≤ x.coil ∧ x.coil ≤ g.coils.length) ∧
    TimersOk s.settings.timers ∧ UrgencyOk s.settings.urgency ∧ LimitSettingsOk s.settings.limits ∧
    LimitOk (s.alloc.pendingLimit.getD s.alloc.effective) ∧
    (1 ≤ s.recipes.learning.step ∧ s.recipes.learning.step ≤ 20 ∧ s.recipes.learning.deadBand ≤ 50 ∧
      s.recipes.learning.limit ≤ 150) ∧
    s.recipes.entries.length = 48 ∧
    (∀ r ∈ s.recipes.entries, r.state ≠ .empty → fieldsOk s.recipes.learning.limit r.data) ∧
    ∀ (i k : Nat) (x y : Recipe), s.recipes.entries[i]? = some x → s.recipes.entries[k]? = some y → x.state ≠ .empty →
      y.state ≠ .empty → x.data.grade = y.data.grade → i = k

/-- The defined entries with their indices, in ascending index. -/
def definedEntries (s : State) : List (Nat × RecipeData) :=
  (List.range 48).filterMap fun i =>
    match s.recipes.entries[i]? with
    | some r => if r.state = .empty then none else some (i, r.data)
    | none => none

end Sys2Proof.Stated

/-- STORE_CONFIG: its refusals; accepted, the full image is captured and the store runs. STORE_COMPLETE_OK and STORE_NO_ACK: the
EEPROM's bytes, on a canonical EEPROM list (the statements InvariantsHoldAtReset and EepromStaysCanonical; log entry 8), the
store state, the result, CONFIG_DONE, and the entries that become STORED; with no store running neither changes anything (log
entry 3). -/
def Obligations.StoreWritesTheImage : Prop :=
  (∀ s : State, Idle s .supervisor →
      (s.line.mode.noLine = true →
        exec (.storeConfig .supervisor) s = .next (refused s .supervisor 0x7F .wrongMode)) ∧
      (s.line.mode.noLine = false → s.loader.store ≠ .idle →
        exec (.storeConfig .supervisor) s = .next (refused s .supervisor 0x7F .busy)) ∧
      (∀ g, s.line.mode.noLine = false → s.loader.store = .idle → s.track.geometry = some g →
        exec (.storeConfig .supervisor) s = .next (answered
          { s with loader := { s.loader with store := .writing (s.capturedImage g) } } .supervisor 0x7F .accepted))) ∧
  ((∀ (s : State) (image : List Byte), Memory.wf s.loader.eeprom = true → s.loader.store = .writing image → image ≠ [] →
      ∃ m : List Host.Cell,
        (readByte m 0 = 0x10 ∧ (∀ a, 1 ≤ a → a < image.length → some (readByte m a) = image[a]?) ∧
          ∀ a, image.length ≤ a → readByte m a = readByte s.loader.eeprom a) ∧
        exec .storeCompleteOk s = .next (raise { s with
          loader := { s.loader with store := .idle, eeprom := m, result := .ok }
          recipes := { s.recipes with
            entries := s.recipes.entries.map fun r => if r.state = .modified then { r with state := .stored } else r } }
          .supervisor .configDone)) ∧
    (∀ (s : State) (image : List Byte) (n : Nat), Memory.wf s.loader.eeprom = true → s.loader.store = .writing image →
      n ≤ image.length → image ≠ [] →
      ∃ m : List Host.Cell,
        ((n = 0 → ∀ a, readByte m a = readByte s.loader.eeprom a) ∧
          (0 < n → readByte m 0 = 0x00 ∧ (∀ a, 1 ≤ a → a < n → some (readByte m a) = image[a]?) ∧
            ∀ a, n ≤ a → 1 ≤ a → readByte m a = readByte s.loader.eeprom a)) ∧
        exec (.storeNoAck n) s = .next (raise { s with
          loader := { s.loader with store := .idle, eeprom := m, result := .noAck } } .supervisor .configDone)) ∧
    (∀ (s : State) (n : Nat), s.loader.store = .idle →
      exec .storeCompleteOk s = .next s ∧ exec (.storeNoAck n) s = .next s))

/-- A store that completes leaves an image that the load reads back to the configuration that was captured: geometry, reach map,
settings, line limit, learning settings and defined recipe entries (the reset keeps the EEPROM: log entry 9). -/
def Obligations.StoredImageLoadsBack : Prop :=
  ∀ (s t r : State) (g : Geometry), Storable s g → s.loader.store = .writing (s.capturedImage g) →
    exec .storeCompleteOk s = .next t → exec (.hardwareReset 0) t = .next r →
    ∃ st : Staging, r.loadOutcome = some st ∧ st.geometry = some g ∧
      st.reach = some (s.matrix.map fun x => { inverter := Inv.num x.inverter, coil := x.coil }) ∧
      st.timers = s.settings.timers ∧ st.urgency = s.settings.urgency ∧
      st.limit = s.alloc.pendingLimit.getD s.alloc.effective ∧ st.limits = s.settings.limits ∧
      st.learning = s.recipes.learning ∧ st.recipes = definedEntries s

/-- IMAGE_APPLIED: what the staged configuration leaves of every block. LOAD_FAILED: the cause by the finding; the line is
UNCONFIGURED, LINE_STOP asserted or not (log entry 11), every block as it was before the load. A byte after the END record of
an image that passes every check is not read, so no finding falls on it (log entry 3). -/
def Obligations.LoadIsAppliedOrFails : Prop :=
  (∀ (s : State) (st : Staging) (g : Geometry) (map : List CrosspointName), BeforeLoad s → s.loader.load = .reading →
      s.loadOutcome = some st → st.geometry = some g → st.reach = some map →
      ∃ t, exec .imageApplied s = .next t ∧ PortsQuiet s t ∧ ModeChanged t ∧ t.loader = { s.loader with load := .applied } ∧
        t.line.mode = (if s.lines.lineStop then .faultStop else .standby) ∧
        t.settings = { timers := st.timers, urgency := st.urgency, limits := st.limits } ∧
        t.alloc.effective = st.limit ∧ t.recipes.learning = st.learning ∧ t.recipes.entries.length = 48 ∧
        (∀ i, i < 48 → t.recipes.entries[i]? = some
          (match st.recipes.find? fun x => x.1 == i with
            | some x => { state := if fractionCheck g.n x.2.fractions then .stored else .invalid, data := x.2 }
            | none => Recipe.empty)) ∧
        t.track = { s.track with
          geometry := some g, slots := List.replicate g.positions .undeclared
          unattributed := List.replicate g.coils.length 0 } ∧
        t.matrix.length = map.length ∧
        (∀ u j, { inverter := Inv.num u, coil := j } ∈ map → t.crosspoint u j = some
          { inverter := u, coil := j, drive := false, timer := .stopped, drop := false
            state := if s.feedbackClosed u j then .failClosed else .opened }) ∧
        (∀ u, (t.channels.get u).state =
          if Inv.num u ≤ g.ratings.length then
            (if map.any (fun x => decide (x.inverter = Inv.num u) && s.feedbackClosed u x.coil) then .locked .unreached
              else .unreached)
          else .absent) ∧
        (∀ j, 1 ≤ j → j ≤ g.coils.length → (t.coil j).map Coil.state = some
          (if ∃ u ∈ inverters, s.feedbackClosed u j = true ∧ { inverter := Inv.num u, coil := j } ∈ map then .locked
            else .unpowered)) ∧
        t.link.queue = ((inverters.filter fun u => decide (Inv.num u ≤ g.ratings.length)).map fun u =>
          { owner := u, command := .stopOutput, purpose := .startStop }) ∧
        t.link.pollTimer = .running st.timers.pollPeriod ∧
        (∀ u, t.link.discovery.get u = if Inv.num u ≤ g.ratings.length then .wanted else .none) ∧
        t.orders = { s.orders with silence := timerFrom st.timers.pressSilence }) ∧
  (∀ (s : State) (a : Nat) (st : Staging), s.loadOutcome = some st → imageEnd s.loader.eeprom 4097 0 ≤ a → 0 < a →
      exec (.loadFailed (some a)) s = .next s) ∧
  (∀ (s : State) (finding : Option Nat), BeforeLoad s → s.loader.load = .reading →
      s.loadOutcome = none ∨ finding = some 0 ∨ (∃ a, finding = some a ∧ a < imageEnd s.loader.eeprom 4097 0) →
      ∃ t, exec (.loadFailed finding) s = .next t ∧ PortsQuiet s t ∧ ModeChanged t ∧
        t = { s with
          line := { s.line with
            mode := .unconfigured (if finding = some 0 then .absent else .loadError), holdTimer := .stopped }
          loader := { s.loader with load := .failed }
          orders := { s.orders with silence := .running 3000 }
          ports := t.ports })

/-! ## The line's inputs and timers -/

/-- PRESS_SILENCE_EXPIRY and HOLD_LIMIT_EXPIRY: a stopped timer does not expire (log entry 3); the silence restarts its timer and in RUN and
DRAIN holds the line with cause SILENT; the hold limit raises HOLD_LIMIT, and with auto-purge on the line goes to PURGE. -/
def Obligations.SilenceAndHoldLimitExpire : Prop :=
  (∀ s : State, s.orders.silence = .stopped → exec .pressSilenceExpiry s = .next s) ∧
  (∀ s : State, s.orders.silence ≠ .stopped →
    let restarted := timerFrom s.settings.timers.pressSilence
    (s.line.mode ≠ .run → s.line.mode ≠ .drain →
      exec .pressSilenceExpiry s = .next { s with orders := { s.orders with silence := restarted } }) ∧
    (∀ r : ReturnMode, s.line.mode = (match r with | .run => .run | .drain => .drain) → s.lines.lineStop = false →
      ∃ t, exec .pressSilenceExpiry s = .next t ∧ PortsQuiet s t ∧ ModeChanged t ∧
        t = { s with
          line := { s.line with
            mode := .hold r, holdCauses := { s.line.holdCauses with silent := true }
            holdTimer := .running (s.settings.timers.holdLimit * 60) }
          orders := { a := cancelledBy .hold s.orders.a, b := cancelledBy .hold s.orders.b, supply := .short
                      silence := restarted }
          push := { s.push with cradleWait := false }
          ports := t.ports })) ∧
  (∀ s : State, s.line.holdTimer = .stopped → exec .holdLimitExpiry s = .next s) ∧
  (∀ s : State, s.line.holdTimer ≠ .stopped →
    (s.settings.limits.autoPurge = false →
      exec .holdLimitExpiry s = .next (raise { s with line := { s.line with holdTimer := .stopped } } .supervisor
        .holdLimit)) ∧
    (∀ r, s.settings.limits.autoPurge = true → s.line.mode = .hold r → s.lines.lineStop = false →
      s.line.restartMark = false →
      ∃ t, exec .holdLimitExpiry s = .next t ∧ PortsQuiet s t ∧ ModeChanged t ∧ Raised t .supervisor .holdLimit ∧
        HeatingEnded t ∧ PendingCancelled s t ∧ t.track = s.track ∧ t.recipes = s.recipes ∧
        t.line = { s.line with
          holdTimer := .stopped
          mode := if s.anyWorking then .stopping .purge else if 0 < s.billets then .purge else .standby }))

/-! ## Slices -/

namespace Sys2Proof.Stated

/-- The link after a command joins the queue at the tail in place of its channel's entry (R113), or is held behind a waiting
start-up stop of its channel (R118). -/
def queuedIn (l : Link) (x : LinkEntry) : Link :=
  if x.purpose ≠ .startStop ∧ l.queue.any (fun y => decide (y.owner = x.owner) && decide (y.purpose = .startStop)) then
    { l with held := l.held.set x.owner (some x) }
  else { l with queue := l.queue.filter (fun y => decide (y.owner ≠ x.owner)) ++ [x] }

/-- A command of a channel waits in the link queue at its tail, or behind the channel's start-up stop. -/
def Waits (t : State) (x : LinkEntry) : Prop :=
  t.link.queue.getLast? = some x ∨ t.link.held.get x.owner = some x

/-- The class of a coil's lead billet (R54), 0 with none. -/
def classNow (s : State) (j : Nat) : Nat :=
  match (s.coil j).bind Coil.lead with
  | some l => classUnder s.settings.urgency s.positions l
  | none => 0

/-- A challenger of the coil assigned to a channel (R65). -/
def Challenger (s : State) (u : Inv) (j : Nat) : Prop :=
  ∃ k c l x, s.coil k = some c ∧ (∃ d, c.state = .queued d) ∧ c.lead = some l ∧ classNow s j ≤ classNow s k ∧
    s.crosspoint u k = some x ∧ x.state ≠ .failOpen ∧ x.state ≠ .failClosed

/-- A SET_OUTPUT of a channel is in flight. -/
def SettingInFlight (s : State) (u : Inv) : Prop :=
  ∃ x kw, s.link.inFlight = some x ∧ x.entry.owner = u ∧ x.entry.command = .setOutput kw

end Sys2Proof.Stated

/-- SLICE_EXPIRY: a timer that is stopped does not expire (log entry 3); with a challenger the grant is released with cause SLICE,
otherwise the slice restarts and the setpoint is raised into the headroom when nothing forbids it. That the SET_OUTPUT of a raise
takes the place of a clear sequence's waiting command, with clear in progress kept, is the model's choice (log entry 40). -/
def Obligations.SliceEndsOrRenews : Prop :=
  (∀ (s : State) (u : Inv), s.alloc.slice.get u = .stopped ∨ s.alloc.grants.get u = none →
    exec (.sliceExpiry u) s = .next s) ∧
  (∀ (s : State) (u : Inv) (g : Grant), s.alloc.slice.get u ≠ .stopped → s.alloc.grants.get u = some g →
    (s.channels.get u).state = .energized →
    let c := s.channels.get u
    (Challenger s u g.coil → g.released = false →
      ∃ t, exec (.sliceExpiry u) s = .next t ∧ t.alloc.grants.get u = some { g with released := true } ∧
        t.alloc.slice.get u = .stopped ∧
        (SettingInFlight s u → (t.channels.get u).state = .energized ∧ (t.channels.get u).release = true) ∧
        (¬ SettingInFlight s u → (t.channels.get u).state = .stopping ∧ (t.channels.get u).commanded = none ∧
          (t.channels.get u).accepted = c.accepted ∧
          (t.channels.get u).stopConfirm = .running s.settings.timers.stopConfirm ∧
          Waits t { owner := u, command := .stopOutput, purpose := .control })) ∧
    (¬ Challenger s u g.coil →
      let renewed := { s with
        alloc := { s.alloc with slice := s.alloc.slice.set u (.running s.settings.timers.slice) } }
      let rating := min (s.inverterRating u) (s.coilRating g.coil)
      let headroom := s.alloc.effective - committedPower s
      let raises := c.commanded = none ∧ c.accepted < rating ∧ 0 < headroom ∧ s.alloc.pendingLimit = none
      (¬ raises → exec (.sliceExpiry u) s = .next renewed) ∧
      (raises →
        let kw := min rating (c.accepted + headroom)
        exec (.sliceExpiry u) s = .next { renewed with
          channels := s.channels.set u { c with commanded := some kw, sent := false, timedOut := false }
          link := queuedIn s.link { owner := u, command := .setOutput kw, purpose := .control } })))

/-! ## The link -/

namespace Sys2Proof.Stated

/-- Channels whose state lets them be polled (R115). -/
def polled : ChannelState → Bool
  | .energized | .stopping | .faulted .noStop => true
  | _ => false

/-- The place of a channel in the rotation of polls after the pointer (R116). -/
def place (pointer : Nat) (u : Inv) : Nat := (Inv.num u + 7 - pointer) % 4

/-- A transaction of an entry with the settings in force (R107, R110). -/
def started (s : State) (x : LinkEntry) : Transaction :=
  { entry := x, replyTimeout := s.settings.timers.replyTimeout, bitRate := s.settings.timers.bitRate, discard := false }

/-- SET_OUTPUT may be sent (R81). -/
def MaySet (s : State) : Prop := s.line.mode.heating = true ∧ s.track.verified = true

end Sys2Proof.Stated

/-- The timers of the link and of the channels that queue a command or mark a poll; a timer that is stopped does not expire (log
entry 3). That a command which falls due after its retry delay takes the place of a clear sequence's waiting command, with clear
in progress kept, is the model's choice (log entries 20 and 40).
SEND_NEXT_TRANSACTION: nothing is sent while the link is not free or no geometry is in force; the queue's head goes first,
then the due poll whose turn it is; a SET_OUTPUT that may not be sent is withdrawn instead (log entry 32), and with it every
SET_OUTPUT of its channel but one in a START_STOP entry, where no run puts one: where each START_STOP entry carries
STOP_OUTPUT, none of the channel's stays. Characters received while the frame is sent are discarded, and the driver is off when
it has been sent (log entry 43). -/
def Obligations.LinkTimersAndNextTransaction : Prop :=
  ((∀ s : State, s.link.pollTimer = .stopped → exec .pollPeriodExpiry s = .next s) ∧
    (∀ s : State, s.link.pollTimer ≠ .stopped → ∃ due : PerInv Bool,
      (∀ u, due.get u = (s.link.pollDue.get u || polled (s.channels.get u).state)) ∧
      exec .pollPeriodExpiry s = .next { s with
        link := { s.link with pollTimer := .running s.settings.timers.pollPeriod, pollDue := due } }) ∧
    (∀ s : State, exec .quietIntervalEnd s = .next { s with link := { s.link with quiet := .stopped } }) ∧
    (∀ (s : State) (u : Inv), (s.channels.get u).retry = none → exec (.retryDelayExpiry u) s = .next s) ∧
    (∀ (s : State) (u : Inv) (r : RetryWait), (s.channels.get u).retry = some r →
      exec (.retryDelayExpiry u) s = .next { s with
        channels := s.channels.set u { s.channels.get u with retry := none }
        link := queuedIn s.link { owner := u, command := r.command, purpose := .control } }) ∧
    (∀ (s : State) (u : Inv), s.link.holdback.get u = .stopped → exec (.discoveryHoldbackExpiry u) s = .next s) ∧
    (∀ (s : State) (u : Inv), s.link.holdback.get u ≠ .stopped →
      let ended := { s.link with holdback := s.link.holdback.set u .stopped }
      (s.link.discovery.get u ≠ .wanted →
        exec (.discoveryHoldbackExpiry u) s = .next { s with link := ended }) ∧
      (s.link.discovery.get u = .wanted →
        exec (.discoveryHoldbackExpiry u) s = .next { s with
          link := queuedIn { ended with discovery := s.link.discovery.set u .queued }
            { owner := u, command := .readState, purpose := .discovery } }))) ∧
  ((∀ (s : State) (received : List Byte), s.link.inFlight ≠ none ∨ s.link.quiet ≠ .stopped ∨ s.track.geometry = none →
      exec (.sendNextTransaction received) s =
        if received = [] ∨ s.link.driver = true then .next s else exec (.unsolicitedReply received) s) ∧
    (∀ (s : State) (received : List Byte), s.link.inFlight = none → s.link.quiet = .stopped → s.track.geometry ≠ none →
      (∀ x rest, s.link.queue = x :: rest →
        (∀ kw, x.command = .setOutput kw → ¬ MaySet s → x.purpose = .control →
          ∃ t, exec (.sendNextTransaction received) s = .next t ∧ t.link.inFlight = none ∧
            (∀ y ∈ t.link.queue, y.owner = x.owner → ∀ k, y.command = .setOutput k →
              y.purpose = .startStop ∧ y ∈ s.link.queue) ∧
            ((∀ y ∈ s.link.queue, y.purpose = .startStop → y.command = .stopOutput) →
              ∀ y ∈ t.link.queue, y.owner = x.owner → ∀ k, y.command ≠ .setOutput k) ∧
            (t.channels.get x.owner).commanded = none ∧
            ((s.channels.get x.owner).state = .starting → (s.channels.get x.owner).sent = false →
              (t.channels.get x.owner).state = .opening) ∧
            (∀ k, (s.channels.get x.owner).state = .starting → (s.channels.get x.owner).sent = true →
              (s.channels.get x.owner).commanded = some k →
              (t.channels.get x.owner).state = .stopping ∧ (t.channels.get x.owner).accepted = k)) ∧
        (∀ kw, x.command = .setOutput kw → MaySet s → x.purpose = .control →
          exec (.sendNextTransaction received) s = .next { s with
            link := { s.link with queue := rest, inFlight := some (started s x), driver := false }
            channels := s.channels.set x.owner { s.channels.get x.owner with sent := true } }) ∧
        ((∀ kw, x.command ≠ .setOutput kw) →
          (x.purpose = .control ∨ x.purpose = .clear →
            exec (.sendNextTransaction received) s = .next { s with
              link := { s.link with queue := rest, inFlight := some (started s x), driver := false } }) ∧
          (x.purpose = .discovery →
            exec (.sendNextTransaction received) s = .next { s with
              link := { s.link with
                queue := rest, inFlight := some (started s x), driver := false
                discovery := s.link.discovery.set x.owner .inFlight } }) ∧
          (x.purpose = .startStop →
            let sent := { s.link with queue := rest, inFlight := some (started s x), driver := false }
            exec (.sendNextTransaction received) s = .next { s with
              link := match s.link.held.get x.owner with
                | none => sent
                | some y => queuedIn { sent with held := s.link.held.set x.owner none } y }))) ∧
      (s.link.queue = [] →
        ((∀ u, s.link.pollDue.get u = false) → exec (.sendNextTransaction received) s = .next s) ∧
        (∀ u, s.link.pointer ≤ 4 → s.link.pollDue.get u = true →
          (∀ v, s.link.pollDue.get v = true → place s.link.pointer u ≤ place s.link.pointer v) →
          exec (.sendNextTransaction received) s = .next { s with
            link := { s.link with
              inFlight := some (started s { owner := u, command := .readState, purpose := .poll })
              driver := false
              pollDue := s.link.pollDue.set u false, pointer := Inv.num u } }))))

namespace Sys2Proof.Stated

/-- One more timeout of a channel makes it lost (R90). -/
def Losing (s : State) (u : Inv) : Prop := s.settings.timers.lostThreshold ≤ min 8 ((s.channels.get u).timeouts + 1)

/-- The link after a transaction has timed out (R110). -/
def afterTimeout (s : State) (x : Transaction) : Link :=
  { s.link with inFlight := none, quiet := .running x.replyTimeout }

/-- A frame of a unit that spells no reply of R209: its length, its CRC or its content fails. -/
def SpellsNothing (frame : List Byte) : Prop := replyOfFrame frame = none

/-- A control command with a setpoint, a stop or a poll, which names no discovery, clear or start-up sequence. -/
def Ordinary (x : Transaction) : Prop :=
  x.entry.purpose = .poll ∨ (x.entry.purpose = .control ∧ x.entry.command ≠ .readState ∧ x.entry.command ≠ .clearFault)

/-- A FAULTED(NO_STOP) channel is lost: at the lost threshold, or at a timeout of its clear sequence whatever its count (R90,
R100). -/
def StopFails (s : State) (x : Transaction) (u : Inv) : Prop :=
  (s.channels.get u).state = .faulted .noStop ∧
    ((Losing s u ∧ Ordinary x) ∨ (x.entry.purpose = .clear ∧ (s.channels.get u).clearing = true))

/-- No drive of a channel's row moves, and no billet is marked. -/
def RowAndTrackKept (s t : State) (u : Inv) : Prop :=
  (∀ k, t.crosspoint u k = s.crosspoint u k) ∧ t.track = s.track

/-- The states of the last row of R91: FAULTED with another cause than NO_STOP, UNREACHED, LOCKED. -/
def OutOfService (st : ChannelState) : Prop :=
  st = .unreached ∨ (∃ f, st = .locked f) ∨ ∃ k, k ≠ .noStop ∧ st = .faulted k

/-- The clear sequence of a channel has ended without its STATE reply (R100): UNREACHED stays, FAULTED becomes
FAULTED(LINK_LOST) with CHANNEL_FAULT, LOCKED takes that into its locked-from value (log entry 39), and a discovery round that
the sequence was to serve awaits the channel no more (R120). -/
def ClearEnded (s t : State) (u : Inv) : Prop :=
  let c := s.channels.get u
  t.channels.get u = { c with
    clearing := false
    timeouts := min 8 (c.timeouts + 1)
    state := match c.state with
      | .faulted _ => .faulted .linkLost
      | .locked (.faulted _) => .locked (.faulted .linkLost)
      | st => st } ∧
  (∀ k, c.state = .faulted k → Raised t .supervisor .channelFault) ∧
  (s.link.discovery.get u = .byClear → t.link.discovery.get u = .none ∧ ∀ y ∈ t.link.rounds, u ∉ y.waiting)

end Sys2Proof.Stated

/-- Frames that are not the reply that is awaited (a row that brings a frame its name does not fit: log entry 3): one with no
transaction in flight or from another unit is discarded; one of the unit that passes no check, and one whose kind does not fit
the command, end the transaction as a timeout does. A bad reply to a poll counts one timeout, and the quiet interval runs; one
whose outcome is discarded counts none. -/
def Obligations.FramesThatAreNoReply : Prop :=
  (∀ s : State, s.link.inFlight = none →
    exec .replyTimeout s = .next s ∧
    ∀ (unit : Nat) (reason : RejectReason) (r : StateReport) (frame : List Byte),
      exec (.accept unit) s = .next s ∧ exec (.reject unit reason) s = .next s ∧ exec (.state unit r) s = .next s ∧
        exec (.badReply frame) s = .next s ∧ exec (.strayReply frame) s = .next s ∧
        exec (.unsolicitedReply frame) s = .next s) ∧
  (∀ (s : State) (x : Transaction), s.link.inFlight = some x →
    (∀ (unit : Nat) (reason : RejectReason) (r : StateReport), unit ≠ Inv.num x.entry.owner →
      exec (.accept unit) s = .next s ∧ exec (.reject unit reason) s = .next s ∧ exec (.state unit r) s = .next s) ∧
    (∀ (b : Byte) (frame : List Byte), b.toNat ≠ Inv.num x.entry.owner →
      exec (.badReply (b :: frame)) s = .next s ∧ exec (.strayReply (b :: frame)) s = .next s ∧
        exec (.unsolicitedReply (b :: frame)) s = .next s) ∧
    (∀ (b : Byte) (frame : List Byte), b.toNat = Inv.num x.entry.owner → SpellsNothing (b :: frame) →
      exec (.badReply (b :: frame)) s = exec .replyTimeout s ∧
        exec (.strayReply (b :: frame)) s = exec .replyTimeout s ∧
        exec (.unsolicitedReply (b :: frame)) s = exec .replyTimeout s) ∧
    (∀ (b : Byte) (frame : List Byte) (u : Inv), b.toNat = Inv.num u → x.entry.owner = u → SpellsNothing (b :: frame) →
      (x.discard = true → exec (.badReply (b :: frame)) s = .next { s with link := afterTimeout s x }) ∧
      (x.discard = false → x.entry.purpose = .poll → ¬ Losing s u →
        exec (.badReply (b :: frame)) s = .next { s with
          link := afterTimeout s x
          channels := s.channels.set u
            { s.channels.get u with timeouts := min 8 ((s.channels.get u).timeouts + 1) } })) ∧
    (x.entry.command = .readState → ∀ reason : RejectReason,
      exec (.accept (Inv.num x.entry.owner)) s = exec .replyTimeout s ∧
        exec (.reject (Inv.num x.entry.owner) reason) s = exec .replyTimeout s) ∧
    (x.entry.command ≠ .readState → ∀ r : StateReport,
      exec (.state (Inv.num x.entry.owner) r) s = exec .replyTimeout s) ∧
    (∀ r : StateReport, (r.output = .fault ↔ r.faultCode = none) →
      exec (.state (Inv.num x.entry.owner) r) s = exec .replyTimeout s))

/-- A timeout: the quiet interval, the count, a setpoint or stop queued again. That a command queued again takes the place of a
clear sequence's waiting command, with clear in progress kept, is the model's choice (log entries 20 and 40). A SET_OUTPUT that
times out with the release mark set is counted as accepted, and the channel enters STOPPING. CHANNEL_LOST is the timeout that
reaches the lost threshold (log entry 4). By it a channel in STARTING, ENERGIZED or STOPPING, or in FAULTED(NO_STOP) with an
assigned coil, opens its drive at once, a clear sequence of it ended (log entry 21), and its coil's billets are marked
ENERGY_UNKNOWN; one in FAULTED(NO_STOP) with no coil is FAULTED(LINK_LOST) at once, no drive opened and no billet marked, its
waiting commands withdrawn and its clear sequence ended (log entry 34); one in CLOSING keeps its drive until the close is decided, and
one in OPENING goes on, both with pending cause LINK_LOST; an IDLE one is FAULTED(LINK_LOST). A timeout of its clear sequence makes
a FAULTED(NO_STOP) channel lost whatever its count. A clear sequence that waits ends for a lost channel that is UNREACHED, LOCKED
or FAULTED with a cause other than NO_STOP, its command withdrawn, save that of an UNREACHED channel at the timeout of its
DISCOVERY read, which goes on (log entry 39). A timeout of its own command ends the sequence of these channels too. -/
def Obligations.TimeoutsCountAndLose : Prop :=
  ∀ (s : State) (x : Transaction) (u : Inv), s.link.inFlight = some x → x.entry.owner = u → x.discard = false →
    let c := s.channels.get u
    (¬ Losing s u → Ordinary x →
      let again := c.state = .starting ∨ c.state = .energized
      (x.entry.purpose = .poll → exec .replyTimeout s = .next { s with
        link := afterTimeout s x
        channels := s.channels.set u { c with timeouts := min 8 (c.timeouts + 1) } }) ∧
      (∀ kw, x.entry.purpose = .control → x.entry.command = .setOutput kw → again → c.release = false →
        exec .replyTimeout s = .next { s with
          link := queuedIn (afterTimeout s x) { owner := u, command := .setOutput kw, purpose := .control }
          channels := s.channels.set u { c with timeouts := min 8 (c.timeouts + 1), timedOut := true } }) ∧
      (x.entry.purpose = .control → x.entry.command = .stopOutput →
        c.state = .stopping ∨ c.state = .faulted .noStop →
        exec .replyTimeout s = .next { s with
          link := queuedIn (afterTimeout s x) { owner := u, command := .stopOutput, purpose := .control }
          channels := s.channels.set u { c with timeouts := min 8 (c.timeouts + 1) } })) ∧
    (∀ kw, ¬ Losing s u → x.entry.purpose = .control → x.entry.command = .setOutput kw → c.release = true →
      c.state = .starting ∨ c.state = .energized →
      ∃ t, exec .replyTimeout s = .next t ∧ t.link.inFlight = none ∧ t.link.quiet = .running x.replyTimeout ∧
        (t.channels.get u).state = .stopping ∧ (t.channels.get u).commanded = none ∧
        (t.channels.get u).timeouts = min 8 (c.timeouts + 1) ∧
        (c.state = .starting → (t.channels.get u).accepted = c.commanded.getD kw) ∧
        (c.state = .energized → (t.channels.get u).accepted = max c.accepted (c.commanded.getD kw)) ∧
        (t.channels.get u).stopConfirm = .running s.settings.timers.stopConfirm ∧
        Waits t { owner := u, command := .stopOutput, purpose := .control }) ∧
    (¬ Losing s u → x.entry.purpose ≠ .clear → exec (.channelLost u) s = .next s) ∧
    (Losing s u → exec (.channelLost u) s = exec .replyTimeout s) ∧
    (∀ j y, c.coil = some j → s.crosspoint u j = some y →
      (Losing s u ∧ Ordinary x ∧ (c.state = .starting ∨ c.state = .energized ∨ c.state = .stopping)) ∨ StopFails s x u →
      ∃ t, exec .replyTimeout s = .next t ∧ t.link.inFlight = none ∧ t.link.quiet = .running x.replyTimeout ∧
        (t.channels.get u).state = .opening ∧ (t.channels.get u).pendingCause = some .linkLost ∧
        (t.channels.get u).pendingWelded = c.pendingWelded ∧ (t.channels.get u).clearing = false ∧
        (t.channels.get u).timeouts = min 8 (c.timeouts + 1) ∧ (t.channels.get u).coil = some j ∧
        (∀ g, s.alloc.grants.get u = some g → t.alloc.grants.get u = some { g with released := true }) ∧
        t.crosspoint u j = some
          { y with drive := false, state := .opening, timer := .running s.settings.timers.feedbackTimeout } ∧
        (∀ z ∈ t.link.queue, z.owner = u → z.purpose = .startStop) ∧
        ∀ p b r, at1 s.track.slots p = some (.billet b) → s.coilRange j = some r → r.first ≤ p → p ≤ r.last →
          at1 t.track.slots p = some (.billet { b with suspect := some .energyUnknown }) ∧
            Raised t .supervisor .suspectMarked) ∧
    (StopFails s x u → c.coil = none →
      ∃ t, exec .replyTimeout s = .next t ∧ (t.channels.get u).state = .faulted .linkLost ∧
        (t.channels.get u).clearing = false ∧ Raised t .supervisor .channelFault ∧
        (∀ z ∈ t.link.queue, z.owner = u → z.purpose = .startStop) ∧ RowAndTrackKept s t u ∧
        (x.entry.purpose ≠ .clear → t.line = s.line)) ∧
    (Losing s u → Ordinary x → c.state = .closing →
      ∃ t, exec .replyTimeout s = .next t ∧ t.line = s.line ∧ RowAndTrackKept s t u ∧
        (t.channels.get u).state = .closing ∧ (t.channels.get u).release = true ∧ (t.channels.get u).coil = c.coil ∧
        (t.channels.get u).pendingCause = some .linkLost ∧ (t.channels.get u).pendingWelded = c.pendingWelded ∧
        ∀ g, s.alloc.grants.get u = some g → t.alloc.grants.get u = some { g with released := true }) ∧
    (Losing s u → Ordinary x → c.state = .opening →
      ∃ t, exec .replyTimeout s = .next t ∧ t.line = s.line ∧ RowAndTrackKept s t u ∧
        t.channels.get u = { c with timeouts := min 8 (c.timeouts + 1), pendingCause := some .linkLost }) ∧
    (Losing s u → x.entry.purpose = .startStop → c.state = .idle →
      ∃ t, exec .replyTimeout s = .next t ∧ (t.channels.get u).state = .faulted .linkLost ∧
        Raised t .supervisor .channelFault ∧ t.link.startMark.get u = false) ∧
    (OutOfService c.state → c.clearing = true →
      (x.entry.purpose = .clear → ∃ t, exec .replyTimeout s = .next t ∧ ClearEnded s t u) ∧
      (x.entry.purpose ≠ .clear → Losing s u → ¬ (x.entry.purpose = .discovery ∧ c.state = .unreached) →
        ∃ t, exec .replyTimeout s = .next t ∧ ClearEnded s t u ∧
          (∀ y ∈ t.link.queue, y.owner = u → y.purpose ≠ .clear) ∧
          ∀ y, t.link.held.get u = some y → y.purpose ≠ .clear) ∧
      (x.entry.purpose = .discovery → c.state = .unreached →
        ∃ t, exec .replyTimeout s = .next t ∧ t.link.queue = s.link.queue ∧ t.link.held = s.link.held ∧
          t.channels.get u = { c with timeouts := min 8 (c.timeouts + 1) } ∧ Raised t .supervisor .channelFault)) ∧
    (OutOfService c.state → c.clearing = false → x.entry.purpose = .poll →
      exec .replyTimeout s = .next { s with
        link := afterTimeout s x
        channels := s.channels.set u { c with timeouts := min 8 (c.timeouts + 1) } })

/-! ## Replies -/

/-- ACCEPT and REJECT: what each outcome of SET_OUTPUT, STOP_OUTPUT, CLEAR_FAULT and the start-up stop does, whether a clear
sequence is in progress or not (log entry 20). That the READ_STATE queued at an answer to CLEAR_FAULT replaces a SET_OUTPUT which
waits, and leaves the channel as it was, is the model's choice (log entry 40). A setpoint of STARTING that timed out counts as accepted in STOPPING; a
REJECT(BUSY) counts also with the release mark set (log entry 31); a cause taken behind WELDED is kept apart (log entry 42);
REJECT_LIMIT_REACHED is the REJECT(BUSY) that reaches the reject limit (log entry 4). -/
def Obligations.AcceptAndRejectDecide : Prop :=
  ∀ (s : State) (x : Transaction) (u : Inv), s.link.inFlight = some x → x.entry.owner = u → x.discard = false →
    let c := s.channels.get u
    let accept := exec (.accept (Inv.num u)) s
    let reject (r : RejectReason) := exec (.reject (Inv.num u) r) s
    let free := { s.link with inFlight := none }
    let heard := { c with timeouts := 0 }
    let t0 := s.settings.timers
    let behindWelded := c.pendingWelded = true ∧ c.pendingCause = none
    let kept := if c.state = .starting ∧ c.timedOut = true then c.commanded.getD c.accepted else c.accepted
    let stops (o : Host.Outcome State Fault Refusal) (rejected : Prop) (rejects accepted : Nat) :=
      ∃ t, o = .next t ∧ t.link.inFlight = none ∧ (t.channels.get u).state = .stopping ∧
        (¬ rejected → (t.channels.get u).pendingCause = c.pendingCause ∧ (t.channels.get u).lateCause = c.lateCause) ∧
        (rejected → ¬ behindWelded → (t.channels.get u).pendingCause = some (c.pendingCause.getD .rejected)) ∧
        (rejected → behindWelded → (t.channels.get u).pendingCause = none ∧
          (t.channels.get u).lateCause = some (c.lateCause.getD .rejected)) ∧
        (t.channels.get u).pendingWelded = c.pendingWelded ∧ (t.channels.get u).rejects = rejects ∧
        (t.channels.get u).accepted = accepted ∧ (t.channels.get u).commanded = none ∧
        (t.channels.get u).timeouts = 0 ∧ (t.channels.get u).stopConfirm = .running t0.stopConfirm ∧
        (∀ g, rejected → s.alloc.grants.get u = some g → t.alloc.grants.get u = some { g with released := true }) ∧
        Waits t { owner := u, command := .stopOutput, purpose := .control }
    (∀ kw, x.entry.purpose = .control → x.entry.command = .setOutput kw →
      (c.state = .starting ∨ c.state = .energized → c.release = false →
        ∃ t, accept = .next t ∧ t.link.inFlight = none ∧ (t.channels.get u).state = .energized ∧
          (t.channels.get u).accepted = c.commanded.getD kw ∧ (t.channels.get u).rejects = 0 ∧
          (t.channels.get u).timeouts = 0 ∧ (t.channels.get u).deferred = none ∧
          (c.state = .starting → t.alloc.slice.get u = .running t0.slice) ∧
          (∀ d, c.deferred = some d → d ≠ c.commanded.getD kw →
            (t.channels.get u).commanded = some d ∧
              Waits t { owner := u, command := .setOutput d, purpose := .control }) ∧
          (c.deferred = none → (t.channels.get u).commanded = none)) ∧
      (c.state = .starting ∨ c.state = .energized → c.release = true →
        stops accept False 0 (c.commanded.getD kw)) ∧
      (c.state = .starting ∨ c.state = .energized → c.release = true →
        stops (reject .busy) False (min 8 (c.rejects + 1)) kept) ∧
      (c.state = .starting ∨ c.state = .energized → c.release = false → min 8 (c.rejects + 1) < t0.rejectLimit →
        reject .busy = .next { s with
          link := free
          channels := s.channels.set u
            { heard with
              rejects := min 8 (c.rejects + 1)
              retry := some { command := .setOutput kw, delay := t0.retryDelay } } } ∧
          exec (.rejectLimitReached u) s = .next s) ∧
      (c.state = .starting ∨ c.state = .energized → c.release = false → t0.rejectLimit ≤ min 8 (c.rejects + 1) →
        stops (reject .busy) True (min 8 (c.rejects + 1)) kept ∧
          exec (.rejectLimitReached u) s = reject .busy) ∧
      (c.state = .starting ∨ c.state = .energized →
        stops (reject .interlock) True c.rejects kept ∧ stops (reject .fault) True c.rejects kept)) ∧
    (x.entry.purpose = .control → x.entry.command = .stopOutput →
      accept = .next { s with link := free, channels := s.channels.set u heard } ∧
      ∀ r, c.state = .stopping ∨ c.state = .faulted .noStop →
        reject r = .next { s with
          link := free
          channels := s.channels.set u
            { heard with retry := some { command := .stopOutput, delay := t0.retryDelay } } }) ∧
    (x.entry.purpose = .clear → x.entry.command = .clearFault → c.clearing = true →
      accept = .next { s with
        link := queuedIn free { owner := u, command := .readState, purpose := .clear }
        channels := s.channels.set u heard } ∧
      ∀ r, reject r = accept) ∧
    (x.entry.purpose = .startStop → x.entry.command = .stopOutput →
      accept = .next { s with
        link := { free with
          startMark := s.link.startMark.set u false, holdback := s.link.holdback.set u (.running t0.stopConfirm) }
        channels := s.channels.set u heard } ∧
      ∀ r, reject r = .next { s with
        link := if s.link.discovery.get u = .wanted then
            queuedIn { free with
              startMark := s.link.startMark.set u false, discovery := s.link.discovery.set u .queued }
              { owner := u, command := .readState, purpose := .discovery }
          else { free with startMark := s.link.startMark.set u false }
        channels := s.channels.set u heard })

namespace Sys2Proof.Stated

/-- A report recorded: the last report, the new baseline, the count of timeouts set to 0 (R82, R90). -/
def reported (c : Channel) (r : StateReport) : Channel :=
  { c with
    lastOutput := some r.output, faultCode := r.faultCode, power := r.power, baseline := some r.counter, timeouts := 0 }

/-- A report has a fault code exactly when its output is FAULT (R109). -/
def Consistent (r : StateReport) : Prop := (r.output = .fault ↔ r.faultCode ≠ none)

/-- The track after an energy difference is handed over for a coil (R23, R24). -/
def handed (s : State) (j d : Nat) : TrackMgr :=
  if d = 0 then s.track
  else if s.track.verified = true ∧ s.coilBillets j ≠ [] then { s.track with slots := s.shareEnergy j d }
  else { s.track with
    unattributed := if j = 0 then s.track.unattributed
      else s.track.unattributed.modify (j - 1) fun e => min 4294967295 (e + d) }

end Sys2Proof.Stated

/-- STATE: a poll's report is recorded and its energy difference handed to the coil; OFF or FAULT ends the connection of a
STOPPING or ENERGIZED channel; a DISCOVERY read decides an UNREACHED channel, a clear sequence's read a FAULTED one, with its
crosspoint closed (NO_STOP) or not (log entries 28, 37). That no reply at the end of a clear sequence sends the channel to
STOPPING, which R86 names as a way in, is the model's choice (log entry 54). Output FAULT at the end of a clear sequence of a closed crosspoint
puts INVERTER_FAULT in place of the pending cause and drops a pending WELDED (log entry 18). -/
def Obligations.StateRepliesDecide : Prop :=
  ∀ (s : State) (x : Transaction) (u : Inv) (r : StateReport), s.link.inFlight = some x → x.entry.owner = u →
    x.discard = false → x.entry.command = .readState → Consistent r →
    let c := s.channels.get u
    let run := exec (.state (Inv.num u) r) s
    let said (t : State) := (t.channels.get u).lastOutput = some r.output ∧ (t.channels.get u).power = r.power ∧
      (t.channels.get u).faultCode = r.faultCode ∧ (t.channels.get u).baseline = some r.counter ∧
      (t.channels.get u).timeouts = 0
    (x.entry.purpose = .poll → c.coil = none ∨ c.baseline = none → r.output = .on ∨ r.output = .ramping →
      run = .next { s with
        link := { s.link with inFlight := none }, channels := s.channels.set u (reported c r) }) ∧
    (∀ j b, x.entry.purpose = .poll → c.coil = some j → c.baseline = some b →
      ∃ t, run = .next t ∧ t.link.inFlight = none ∧ said t ∧
        t.track = handed s j ((r.counter + 65536 - b) % 65536) ∧ t.settings = s.settings ∧ t.recipes = s.recipes ∧
        (c.state = .energized → r.output = .on ∨ r.output = .ramping →
          (t.channels.get u).state = .energized ∨ (t.channels.get u).state = .stopping) ∧
        (∀ y, c.state = .stopping ∨ c.state = .energized → r.output = .off ∨ r.output = .fault →
          s.crosspoint u j = some y →
          (t.channels.get u).state = .opening ∧ (t.channels.get u).stopConfirm = .stopped ∧
          (t.channels.get u).pendingCause =
            (if r.output = .fault ∨ c.state = .energized then some .inverterFault else c.pendingCause) ∧
          t.crosspoint u j = some
            { y with drive := false, state := .opening, timer := .running s.settings.timers.feedbackTimeout })) ∧
    (x.entry.purpose = .discovery → c.state = .unreached → s.line.mode.heating = false →
      (∀ y ∈ s.link.rounds, y.forStart = false) →
      ∃ t, run = .next t ∧ said t ∧ t.track = s.track ∧ t.line = s.line ∧ t.link.discovery.get u = .none ∧
        (∀ y ∈ t.link.rounds, u ∉ y.waiting ∧ y.waiting ≠ []) ∧
        (t.channels.get u).state = (match r.output with
          | .off => .idle
          | .fault => .faulted .inverterFault
          | .ramping | .on => .faulted .noStop) ∧
        (r.output ≠ .off → Raised t .supervisor .channelFault)) ∧
    (∀ k, x.entry.purpose = .clear → c.clearing = true → c.state = .faulted k → c.coil = none →
      s.line.mode.heating = false → (∀ y ∈ s.link.rounds, y.forStart = false) →
      ∃ t, run = .next t ∧ said t ∧ (t.channels.get u).clearing = false ∧ t.track = s.track ∧
        (t.channels.get u).state = (match r.output with
          | .off => .idle
          | .fault => .faulted .inverterFault
          | .ramping | .on => .faulted .noStop)) ∧
    (∀ j b, x.entry.purpose = .clear → c.clearing = true → c.state = .faulted .noStop → c.coil = some j →
      c.baseline = some b → s.line.mode.noLine = false → s.line.mode.heating = false →
      (∀ y ∈ s.link.rounds, y.forStart = false) →
      ∃ t, run = .next t ∧ said t ∧ (t.channels.get u).clearing = false ∧ (t.channels.get u).coil = some j ∧
        t.track = handed s j ((r.counter + 65536 - b) % 65536) ∧
        (r.output = .off ∨ r.output = .fault →
          (t.channels.get u).state = .opening ∧
          (t.channels.get u).pendingCause = (if r.output = .fault then some .inverterFault else c.pendingCause) ∧
          (t.channels.get u).pendingWelded = (if r.output = .fault then false else c.pendingWelded) ∧
          ∀ y, s.crosspoint u j = some y → t.crosspoint u j = some
            { y with drive := false, state := .opening, timer := .running s.settings.timers.feedbackTimeout }) ∧
        (r.output = .ramping ∨ r.output = .on →
          (t.channels.get u).state = .faulted .noStop ∧ t.crosspoint u j = s.crosspoint u j ∧
          t.line.mode = .faultStop ∧ t.line.stopCauses.noStop = true))

/-- LINE_STOP: a change of the level to asserted is a request for FAULT_STOP with cause LINE_STOP; a change to deasserted changes
the level alone. STOP_CONFIRM_EXPIRY in STOPPING: the channel is FAULTED(NO_STOP) with its drive left closed, and FAULT_STOP
is entered with cause NO_STOP; elsewhere, or with the timer stopped, nothing happens (log entry 3). -/
def Obligations.LineStopAndUnconfirmedStop : Prop :=
  ((∀ s : State, exec .lineStopDeasserted s = .next { s with lines := { s.lines with lineStop := false } }) ∧
    (∀ s : State, s.lines.lineStop = true → exec .lineStopAsserted s = .next s) ∧
    (∀ s : State, s.lines.lineStop = false →
      let level := { s.lines with lineStop := true }
      (s.line.mode.noLine = true → exec .lineStopAsserted s = .next { s with lines := level }) ∧
      (s.line.mode = .faultStop →
        exec .lineStopAsserted s = .next { s with
          lines := level, line := { s.line with stopCauses := { s.line.stopCauses with lineStop := true } } }) ∧
      (s.line.mode.noLine = false → s.line.mode ≠ .faultStop →
        ∃ t, exec .lineStopAsserted s = .next t ∧ PortsQuiet s t ∧ ModeChanged t ∧ t.track = s.track ∧
          t.recipes = s.recipes ∧ t.settings = s.settings ∧ t.loader = s.loader ∧ t.push.record = s.push.record ∧
          t.push.counter = s.push.counter ∧ t.lines.lineStop = true ∧ t.lines.feedback = s.lines.feedback ∧
          t.line = { s.line with
            mode := .faultStop, holdTimer := .stopped, restartMark := false
            stopCauses := { s.line.stopCauses with lineStop := true } } ∧
          (s.line.mode.heating = true → HeatingEnded t) ∧
          (s.push.station = none →
            PendingCancelled s t ∧ t.lines.divert = s.lines.divert ∧ t.push.history = s.push.history) ∧
          (∀ m, s.push.station = some m → t.push.station = none ∧ t.lines.divert = true ∧
            t.push.history = historyWith s.push.history
              (entryOf m.billet (.diverted .lineFault) none (some m.served)) ∧
            t.push.classCount = counted s.push.classCount)))) ∧
  ((∀ (s : State) (u : Inv), (s.channels.get u).stopConfirm = .stopped ∨ (s.channels.get u).state ≠ .stopping →
      exec (.stopConfirmExpiry u) s = .next s) ∧
    (∀ (s : State) (u : Inv), (s.channels.get u).stopConfirm ≠ .stopped → (s.channels.get u).state = .stopping →
      s.line.mode.noLine = false →
      ∃ t, exec (.stopConfirmExpiry u) s = .next t ∧ (t.channels.get u).state = .faulted .noStop ∧
        (t.channels.get u).pendingCause = none ∧ (t.channels.get u).stopConfirm = .stopped ∧
        (t.channels.get u).accepted = (s.channels.get u).accepted ∧ (t.channels.get u).coil = (s.channels.get u).coil ∧
        (∀ j, t.crosspoint u j = s.crosspoint u j) ∧ t.line.mode = .faultStop ∧
        t.line.stopCauses = { s.line.stopCauses with noStop := true } ∧ Raised t .supervisor .channelFault ∧
        (s.line.mode ≠ .faultStop → ModeChanged t) ∧ t.track = s.track))

/-! ## Crosspoint feedback -/

/-- FEEDBACK_CLOSED, FEEDBACK_OPEN and FEEDBACK_TIMEOUT: the input's level, and what becomes of the crosspoint by its state. (A
warm restart that the event completes clears the flag it raised. A change of level that is none, and a timer that is stopped,
are log entry 3's.) The channel: a failed close gives it back, a failed open locks it (what it keeps is log entries 17 and 45),
a crosspoint that fails closed locks it, or, when it is connected elsewhere, leaves it with pending WELDED in FAULT_STOP; its
coil is LOCKED (QueuesMatchCoilStates: it stood in a queue only if QUEUED). The confirmed open of the last working channel ends STOPPING in its target. -/
def Obligations.FeedbackMovesCrosspoints : Prop :=
  ∀ (s : State) (u : Inv) (j : Nat), 1 ≤ j → j ≤ (s.lines.feedback.get u).length →
    let closed := exec (.feedbackClosed u j) s
    let opens := exec (.feedbackOpen u j) s
    let timeout := exec (.feedbackTimeout u j) s
    let level (b : Bool) : Lines :=
      { s.lines with feedback := s.lines.feedback.set u ((s.lines.feedback.get u).set (j - 1) b) }
    let c := s.channels.get u
    (s.crosspoint u j = none →
      closed = .next { s with lines := level true } ∧ opens = .next { s with lines := level false } ∧
        timeout = .next s) ∧
    ∀ x, s.crosspoint u j = some x →
      (x.state = .closed ∨ x.state = .opening ∨ x.state = .failClosed → closed = .next { s with lines := level true }) ∧
      (x.state = .opened ∨ x.state = .closing ∨ x.state = .failOpen ∨ x.state = .failClosed ∨
          (x.state = .closed ∧ x.drop = true) →
        opens = .next { s with lines := level false }) ∧
      (x.state = .closing → c.state = .closing → c.coil = some j →
        ∃ t, closed = .next t ∧ t.lines = level true ∧
          (¬ (MaySet s ∧ c.release = false) → (t.channels.get u).state = .opening ∧
            t.crosspoint u j = some
              { x with drive := false, state := .opening, timer := .running s.settings.timers.feedbackTimeout }) ∧
          (MaySet s → c.release = false → (t.channels.get u).state = .starting ∧
            (t.channels.get u).commanded = some c.grantSetpoint ∧
            Waits t { owner := u, command := .setOutput c.grantSetpoint, purpose := .control } ∧
            t.crosspoint u j = some { x with state := .closed, timer := .stopped })) ∧
      (x.state = .opened ∨ x.state = .failOpen → (c.coil = some j → ∃ f, c.state = .locked f) →
        ∃ t, closed = .next t ∧ t.lines.feedback = (level true).feedback ∧
          t.crosspoint u j = some { x with state := .failClosed, timer := .stopped } ∧
          Raised t .supervisor .crosspointFault ∧ BecomesLocked s t j ∧
          (c.state = .idle → (t.channels.get u).state = .locked .idle ∧ Raised t .supervisor .channelFault) ∧
          (c.state = .unreached → (t.channels.get u).state = .locked .unreached ∧ Raised t .supervisor .channelFault) ∧
          (∀ k, c.state = .faulted k → (∀ y ∈ s.matrix, y.inverter = u → y.drive = false) →
            (t.channels.get u).state = .locked (.faulted k) ∧ Raised t .supervisor .channelFault) ∧
          (∀ f, c.state = .locked f → (t.channels.get u).state = .locked f)) ∧
      (∀ k, x.state = .opened ∨ x.state = .failOpen → c.coil = some k → k ≠ j → s.line.mode.noLine = false →
        (c.state ∈ [ChannelState.closing, .starting, .energized, .stopping, .opening] ∨
          (c.state = .faulted .noStop ∧ ∃ y ∈ s.matrix, y.inverter = u ∧ y.drive = true)) →
        ∃ t, closed = .next t ∧ t.crosspoint u j = some { x with state := .failClosed, timer := .stopped } ∧
          (t.channels.get u).pendingWelded = true ∧ (t.channels.get u).pendingCause = c.pendingCause ∧
          (t.channels.get u).coil = some k ∧ t.line.mode = .faultStop ∧ t.line.stopCauses.welded = true ∧
          (s.line.mode ≠ .faultStop → ModeChanged t) ∧ Raised t .supervisor .crosspointFault ∧
          BecomesLocked s t j ∧
          (∀ y g, s.line.mode.heating = true → s.coil j = some y → y.state ≠ .assigned u →
            s.alloc.grants.get u = some g → t.alloc.grants.get u = some { g with released := true })) ∧
      (x.state = .opening → c.state = .opening → c.coil = some j → s.line.mode.heating = false →
        ∃ t, opens = .next t ∧ t.lines.feedback = (level false).feedback ∧ (t.channels.get u).coil = none ∧
          t.crosspoint u j = some
            { x with state := if x.drop then .failOpen else .opened, timer := .stopped, drop := false } ∧
          t.alloc.grants.get u = none ∧
          (∀ target, s.line.mode = .stopping target → s.lines.lineStop = false → s.line.restartMark = false →
            (if inverters.all (fun v => v == u || !(s.channels.get v).state.working) = true then
              t.line.mode = (if target = .purge ∧ 0 < s.billets then .purge else .standby) ∧ ModeChanged t
            else t.line = s.line)) ∧
          (x.drop = true → s.line.restartMark = false → Raised t .supervisor .crosspointFault) ∧
          (c.pendingWelded = false → (t.channels.get u).state = (match c.pendingCause with
            | none => .idle
            | some .linkLost => .faulted .linkLost
            | some .rejected => .faulted .rejected
            | some .inverterFault => .faulted .inverterFault)) ∧
          (c.pendingWelded = true → (t.channels.get u).state = .locked (match c.pendingCause with
            | none => .idle
            | some .linkLost => .faulted .linkLost
            | some .rejected => .faulted .rejected
            | some .inverterFault => .faulted .inverterFault))) ∧
      (x.state = .closed → x.drop = false →
        ∃ t, opens = .next t ∧ t.lines = level false ∧ t.crosspoint u j = some { x with drop := true } ∧
          Raised t .supervisor .crosspointFault ∧
          (∀ g, c.coil = some j → s.alloc.grants.get u = some g →
            t.alloc.grants.get u = some { g with released := true }) ∧
          (c.coil = some j → c.state = .energized → ¬ SettingInFlight s u →
            (t.channels.get u).state = .stopping)) ∧
      (x.timer = .stopped → timeout = .next s) ∧
      (x.timer ≠ .stopped → s.feedbackClosed u j = false → x.state = .closing →
        ∃ t, timeout = .next t ∧ t.lines.feedback = s.lines.feedback ∧
          (s.line.restartMark = false → Raised t .supervisor .crosspointFault) ∧
          t.crosspoint u j = some { x with drive := false, state := .failOpen, timer := .stopped, drop := false } ∧
          (c.state = .closing → c.coil = some j →
            (s.line.mode.heating = false ∨ afterOpening c ≠ .idle →
              (t.channels.get u).state = afterOpening c ∧ (t.channels.get u).coil = none ∧
                t.alloc.grants.get u = none) ∧
            ((t.channels.get u).state = afterOpening c ∨ (t.channels.get u).state = .closing))) ∧
      (x.timer ≠ .stopped → s.feedbackClosed u j = true → x.state = .opening → c.coil = some j → c.state = .opening →
        ∃ t, timeout = .next t ∧ (s.line.restartMark = false → Raised t .supervisor .crosspointFault) ∧
          t.crosspoint u j = some { x with state := .failClosed, timer := .stopped } ∧
          BecomesLocked s t j ∧
          (t.channels.get u).state = afterOpening { c with pendingWelded := true } ∧
          (s.line.restartMark = false →
            (t.channels.get u).coil = some j ∧ (t.channels.get u).grantSetpoint = c.grantSetpoint ∧
            (t.channels.get u).accepted = c.accepted ∧ (t.channels.get u).release = c.release ∧
            (t.channels.get u).pendingWelded = false ∧ (t.channels.get u).pendingCause = none ∧
            Raised t .supervisor .channelFault))
end

