-- ==== Sys2Proof/Laws/State.lean ====
section
/-! SUPPORT. What each update of a block leaves of every field of the state: one lemma per field per update. -/

namespace Sys2Proof.Machine

/-! ### Ev.modLine -/

@[simp] theorem Ev.modLine_pending (e : Ev) (f : LineCtl → LineCtl) : (e.modLine f).s.pending = e.s.pending := rfl
@[simp] theorem Ev.modLine_line (e : Ev) (f : LineCtl → LineCtl) : (e.modLine f).s.line = f e.s.line := rfl
@[simp] theorem Ev.modLine_lines (e : Ev) (f : LineCtl → LineCtl) : (e.modLine f).s.lines = e.s.lines := rfl
@[simp] theorem Ev.modLine_track (e : Ev) (f : LineCtl → LineCtl) : (e.modLine f).s.track = e.s.track := rfl
@[simp] theorem Ev.modLine_recipes (e : Ev) (f : LineCtl → LineCtl) : (e.modLine f).s.recipes = e.s.recipes := rfl
@[simp] theorem Ev.modLine_alloc (e : Ev) (f : LineCtl → LineCtl) : (e.modLine f).s.alloc = e.s.alloc := rfl
@[simp] theorem Ev.modLine_channels (e : Ev) (f : LineCtl → LineCtl) : (e.modLine f).s.channels = e.s.channels := rfl
@[simp] theorem Ev.modLine_matrix (e : Ev) (f : LineCtl → LineCtl) : (e.modLine f).s.matrix = e.s.matrix := rfl
@[simp] theorem Ev.modLine_link (e : Ev) (f : LineCtl → LineCtl) : (e.modLine f).s.link = e.s.link := rfl
@[simp] theorem Ev.modLine_push (e : Ev) (f : LineCtl → LineCtl) : (e.modLine f).s.push = e.s.push := rfl
@[simp] theorem Ev.modLine_orders (e : Ev) (f : LineCtl → LineCtl) : (e.modLine f).s.orders = e.s.orders := rfl
@[simp] theorem Ev.modLine_settings (e : Ev) (f : LineCtl → LineCtl) : (e.modLine f).s.settings = e.s.settings := rfl
@[simp] theorem Ev.modLine_ports (e : Ev) (f : LineCtl → LineCtl) : (e.modLine f).s.ports = e.s.ports := rfl
@[simp] theorem Ev.modLine_loader (e : Ev) (f : LineCtl → LineCtl) : (e.modLine f).s.loader = e.s.loader := rfl
@[simp] theorem Ev.modLine_free (e : Ev) (f : LineCtl → LineCtl) : (e.modLine f).s.free = e.s.free := rfl
@[simp] theorem Ev.modLine_passDue (e : Ev) (f : LineCtl → LineCtl) : (e.modLine f).passDue = e.passDue := rfl
@[simp] theorem Ev.modLine_evalDue (e : Ev) (f : LineCtl → LineCtl) : (e.modLine f).evalDue = e.evalDue := rfl

/-! ### Ev.modLines -/

@[simp] theorem Ev.modLines_pending (e : Ev) (f : Lines → Lines) : (e.modLines f).s.pending = e.s.pending := rfl
@[simp] theorem Ev.modLines_line (e : Ev) (f : Lines → Lines) : (e.modLines f).s.line = e.s.line := rfl
@[simp] theorem Ev.modLines_lines (e : Ev) (f : Lines → Lines) : (e.modLines f).s.lines = f e.s.lines := rfl
@[simp] theorem Ev.modLines_track (e : Ev) (f : Lines → Lines) : (e.modLines f).s.track = e.s.track := rfl
@[simp] theorem Ev.modLines_recipes (e : Ev) (f : Lines → Lines) : (e.modLines f).s.recipes = e.s.recipes := rfl
@[simp] theorem Ev.modLines_alloc (e : Ev) (f : Lines → Lines) : (e.modLines f).s.alloc = e.s.alloc := rfl
@[simp] theorem Ev.modLines_channels (e : Ev) (f : Lines → Lines) : (e.modLines f).s.channels = e.s.channels := rfl
@[simp] theorem Ev.modLines_matrix (e : Ev) (f : Lines → Lines) : (e.modLines f).s.matrix = e.s.matrix := rfl
@[simp] theorem Ev.modLines_link (e : Ev) (f : Lines → Lines) : (e.modLines f).s.link = e.s.link := rfl
@[simp] theorem Ev.modLines_push (e : Ev) (f : Lines → Lines) : (e.modLines f).s.push = e.s.push := rfl
@[simp] theorem Ev.modLines_orders (e : Ev) (f : Lines → Lines) : (e.modLines f).s.orders = e.s.orders := rfl
@[simp] theorem Ev.modLines_settings (e : Ev) (f : Lines → Lines) : (e.modLines f).s.settings = e.s.settings := rfl
@[simp] theorem Ev.modLines_ports (e : Ev) (f : Lines → Lines) : (e.modLines f).s.ports = e.s.ports := rfl
@[simp] theorem Ev.modLines_loader (e : Ev) (f : Lines → Lines) : (e.modLines f).s.loader = e.s.loader := rfl
@[simp] theorem Ev.modLines_free (e : Ev) (f : Lines → Lines) : (e.modLines f).s.free = e.s.free := rfl
@[simp] theorem Ev.modLines_passDue (e : Ev) (f : Lines → Lines) : (e.modLines f).passDue = e.passDue := rfl
@[simp] theorem Ev.modLines_evalDue (e : Ev) (f : Lines → Lines) : (e.modLines f).evalDue = e.evalDue := rfl

/-! ### Ev.modTrack -/

@[simp] theorem Ev.modTrack_pending (e : Ev) (f : TrackMgr → TrackMgr) : (e.modTrack f).s.pending = e.s.pending := rfl
@[simp] theorem Ev.modTrack_line (e : Ev) (f : TrackMgr → TrackMgr) : (e.modTrack f).s.line = e.s.line := rfl
@[simp] theorem Ev.modTrack_lines (e : Ev) (f : TrackMgr → TrackMgr) : (e.modTrack f).s.lines = e.s.lines := rfl
@[simp] theorem Ev.modTrack_track (e : Ev) (f : TrackMgr → TrackMgr) : (e.modTrack f).s.track = f e.s.track := rfl
@[simp] theorem Ev.modTrack_recipes (e : Ev) (f : TrackMgr → TrackMgr) : (e.modTrack f).s.recipes = e.s.recipes := rfl
@[simp] theorem Ev.modTrack_alloc (e : Ev) (f : TrackMgr → TrackMgr) : (e.modTrack f).s.alloc = e.s.alloc := rfl
@[simp] theorem Ev.modTrack_channels (e : Ev) (f : TrackMgr → TrackMgr) : (e.modTrack f).s.channels = e.s.channels := rfl
@[simp] theorem Ev.modTrack_matrix (e : Ev) (f : TrackMgr → TrackMgr) : (e.modTrack f).s.matrix = e.s.matrix := rfl
@[simp] theorem Ev.modTrack_link (e : Ev) (f : TrackMgr → TrackMgr) : (e.modTrack f).s.link = e.s.link := rfl
@[simp] theorem Ev.modTrack_push (e : Ev) (f : TrackMgr → TrackMgr) : (e.modTrack f).s.push = e.s.push := rfl
@[simp] theorem Ev.modTrack_orders (e : Ev) (f : TrackMgr → TrackMgr) : (e.modTrack f).s.orders = e.s.orders := rfl
@[simp] theorem Ev.modTrack_settings (e : Ev) (f : TrackMgr → TrackMgr) : (e.modTrack f).s.settings = e.s.settings := rfl
@[simp] theorem Ev.modTrack_ports (e : Ev) (f : TrackMgr → TrackMgr) : (e.modTrack f).s.ports = e.s.ports := rfl
@[simp] theorem Ev.modTrack_loader (e : Ev) (f : TrackMgr → TrackMgr) : (e.modTrack f).s.loader = e.s.loader := rfl
@[simp] theorem Ev.modTrack_free (e : Ev) (f : TrackMgr → TrackMgr) : (e.modTrack f).s.free = e.s.free := rfl
@[simp] theorem Ev.modTrack_passDue (e : Ev) (f : TrackMgr → TrackMgr) : (e.modTrack f).passDue = e.passDue := rfl
@[simp] theorem Ev.modTrack_evalDue (e : Ev) (f : TrackMgr → TrackMgr) : (e.modTrack f).evalDue = e.evalDue := rfl

/-! ### Ev.modRecipes -/

@[simp] theorem Ev.modRecipes_pending (e : Ev) (f : RecipeTable → RecipeTable) : (e.modRecipes f).s.pending = e.s.pending := rfl
@[simp] theorem Ev.modRecipes_line (e : Ev) (f : RecipeTable → RecipeTable) : (e.modRecipes f).s.line = e.s.line := rfl
@[simp] theorem Ev.modRecipes_lines (e : Ev) (f : RecipeTable → RecipeTable) : (e.modRecipes f).s.lines = e.s.lines := rfl
@[simp] theorem Ev.modRecipes_track (e : Ev) (f : RecipeTable → RecipeTable) : (e.modRecipes f).s.track = e.s.track := rfl
@[simp] theorem Ev.modRecipes_recipes (e : Ev) (f : RecipeTable → RecipeTable) : (e.modRecipes f).s.recipes = f e.s.recipes := rfl
@[simp] theorem Ev.modRecipes_alloc (e : Ev) (f : RecipeTable → RecipeTable) : (e.modRecipes f).s.alloc = e.s.alloc := rfl
@[simp] theorem Ev.modRecipes_channels (e : Ev) (f : RecipeTable → RecipeTable) : (e.modRecipes f).s.channels = e.s.channels := rfl
@[simp] theorem Ev.modRecipes_matrix (e : Ev) (f : RecipeTable → RecipeTable) : (e.modRecipes f).s.matrix = e.s.matrix := rfl
@[simp] theorem Ev.modRecipes_link (e : Ev) (f : RecipeTable → RecipeTable) : (e.modRecipes f).s.link = e.s.link := rfl
@[simp] theorem Ev.modRecipes_push (e : Ev) (f : RecipeTable → RecipeTable) : (e.modRecipes f).s.push = e.s.push := rfl
@[simp] theorem Ev.modRecipes_orders (e : Ev) (f : RecipeTable → RecipeTable) : (e.modRecipes f).s.orders = e.s.orders := rfl
@[simp] theorem Ev.modRecipes_settings (e : Ev) (f : RecipeTable → RecipeTable) : (e.modRecipes f).s.settings = e.s.settings := rfl
@[simp] theorem Ev.modRecipes_ports (e : Ev) (f : RecipeTable → RecipeTable) : (e.modRecipes f).s.ports = e.s.ports := rfl
@[simp] theorem Ev.modRecipes_loader (e : Ev) (f : RecipeTable → RecipeTable) : (e.modRecipes f).s.loader = e.s.loader := rfl
@[simp] theorem Ev.modRecipes_free (e : Ev) (f : RecipeTable → RecipeTable) : (e.modRecipes f).s.free = e.s.free := rfl
@[simp] theorem Ev.modRecipes_passDue (e : Ev) (f : RecipeTable → RecipeTable) : (e.modRecipes f).passDue = e.passDue := rfl
@[simp] theorem Ev.modRecipes_evalDue (e : Ev) (f : RecipeTable → RecipeTable) : (e.modRecipes f).evalDue = e.evalDue := rfl

/-! ### Ev.modAlloc -/

@[simp] theorem Ev.modAlloc_pending (e : Ev) (f : Allocator → Allocator) : (e.modAlloc f).s.pending = e.s.pending := rfl
@[simp] theorem Ev.modAlloc_line (e : Ev) (f : Allocator → Allocator) : (e.modAlloc f).s.line = e.s.line := rfl
@[simp] theorem Ev.modAlloc_lines (e : Ev) (f : Allocator → Allocator) : (e.modAlloc f).s.lines = e.s.lines := rfl
@[simp] theorem Ev.modAlloc_track (e : Ev) (f : Allocator → Allocator) : (e.modAlloc f).s.track = e.s.track := rfl
@[simp] theorem Ev.modAlloc_recipes (e : Ev) (f : Allocator → Allocator) : (e.modAlloc f).s.recipes = e.s.recipes := rfl
@[simp] theorem Ev.modAlloc_alloc (e : Ev) (f : Allocator → Allocator) : (e.modAlloc f).s.alloc = f e.s.alloc := rfl
@[simp] theorem Ev.modAlloc_channels (e : Ev) (f : Allocator → Allocator) : (e.modAlloc f).s.channels = e.s.channels := rfl
@[simp] theorem Ev.modAlloc_matrix (e : Ev) (f : Allocator → Allocator) : (e.modAlloc f).s.matrix = e.s.matrix := rfl
@[simp] theorem Ev.modAlloc_link (e : Ev) (f : Allocator → Allocator) : (e.modAlloc f).s.link = e.s.link := rfl
@[simp] theorem Ev.modAlloc_push (e : Ev) (f : Allocator → Allocator) : (e.modAlloc f).s.push = e.s.push := rfl
@[simp] theorem Ev.modAlloc_orders (e : Ev) (f : Allocator → Allocator) : (e.modAlloc f).s.orders = e.s.orders := rfl
@[simp] theorem Ev.modAlloc_settings (e : Ev) (f : Allocator → Allocator) : (e.modAlloc f).s.settings = e.s.settings := rfl
@[simp] theorem Ev.modAlloc_ports (e : Ev) (f : Allocator → Allocator) : (e.modAlloc f).s.ports = e.s.ports := rfl
@[simp] theorem Ev.modAlloc_loader (e : Ev) (f : Allocator → Allocator) : (e.modAlloc f).s.loader = e.s.loader := rfl
@[simp] theorem Ev.modAlloc_free (e : Ev) (f : Allocator → Allocator) : (e.modAlloc f).s.free = e.s.free := rfl
@[simp] theorem Ev.modAlloc_passDue (e : Ev) (f : Allocator → Allocator) : (e.modAlloc f).passDue = e.passDue := rfl
@[simp] theorem Ev.modAlloc_evalDue (e : Ev) (f : Allocator → Allocator) : (e.modAlloc f).evalDue = e.evalDue := rfl

/-! ### Ev.modMatrix -/

@[simp] theorem Ev.modMatrix_pending (e : Ev) (f : List Crosspoint → List Crosspoint) : (e.modMatrix f).s.pending = e.s.pending := rfl
@[simp] theorem Ev.modMatrix_line (e : Ev) (f : List Crosspoint → List Crosspoint) : (e.modMatrix f).s.line = e.s.line := rfl
@[simp] theorem Ev.modMatrix_lines (e : Ev) (f : List Crosspoint → List Crosspoint) : (e.modMatrix f).s.lines = e.s.lines := rfl
@[simp] theorem Ev.modMatrix_track (e : Ev) (f : List Crosspoint → List Crosspoint) : (e.modMatrix f).s.track = e.s.track := rfl
@[simp] theorem Ev.modMatrix_recipes (e : Ev) (f : List Crosspoint → List Crosspoint) : (e.modMatrix f).s.recipes = e.s.recipes := rfl
@[simp] theorem Ev.modMatrix_alloc (e : Ev) (f : List Crosspoint → List Crosspoint) : (e.modMatrix f).s.alloc = e.s.alloc := rfl
@[simp] theorem Ev.modMatrix_channels (e : Ev) (f : List Crosspoint → List Crosspoint) : (e.modMatrix f).s.channels = e.s.channels := rfl
@[simp] theorem Ev.modMatrix_matrix (e : Ev) (f : List Crosspoint → List Crosspoint) : (e.modMatrix f).s.matrix = f e.s.matrix := rfl
@[simp] theorem Ev.modMatrix_link (e : Ev) (f : List Crosspoint → List Crosspoint) : (e.modMatrix f).s.link = e.s.link := rfl
@[simp] theorem Ev.modMatrix_push (e : Ev) (f : List Crosspoint → List Crosspoint) : (e.modMatrix f).s.push = e.s.push := rfl
@[simp] theorem Ev.modMatrix_orders (e : Ev) (f : List Crosspoint → List Crosspoint) : (e.modMatrix f).s.orders = e.s.orders := rfl
@[simp] theorem Ev.modMatrix_settings (e : Ev) (f : List Crosspoint → List Crosspoint) : (e.modMatrix f).s.settings = e.s.settings := rfl
@[simp] theorem Ev.modMatrix_ports (e : Ev) (f : List Crosspoint → List Crosspoint) : (e.modMatrix f).s.ports = e.s.ports := rfl
@[simp] theorem Ev.modMatrix_loader (e : Ev) (f : List Crosspoint → List Crosspoint) : (e.modMatrix f).s.loader = e.s.loader := rfl
@[simp] theorem Ev.modMatrix_free (e : Ev) (f : List Crosspoint → List Crosspoint) : (e.modMatrix f).s.free = e.s.free := rfl
@[simp] theorem Ev.modMatrix_passDue (e : Ev) (f : List Crosspoint → List Crosspoint) : (e.modMatrix f).passDue = e.passDue := rfl
@[simp] theorem Ev.modMatrix_evalDue (e : Ev) (f : List Crosspoint → List Crosspoint) : (e.modMatrix f).evalDue = e.evalDue := rfl

/-! ### Ev.modLink -/

@[simp] theorem Ev.modLink_pending (e : Ev) (f : Link → Link) : (e.modLink f).s.pending = e.s.pending := rfl
@[simp] theorem Ev.modLink_line (e : Ev) (f : Link → Link) : (e.modLink f).s.line = e.s.line := rfl
@[simp] theorem Ev.modLink_lines (e : Ev) (f : Link → Link) : (e.modLink f).s.lines = e.s.lines := rfl
@[simp] theorem Ev.modLink_track (e : Ev) (f : Link → Link) : (e.modLink f).s.track = e.s.track := rfl
@[simp] theorem Ev.modLink_recipes (e : Ev) (f : Link → Link) : (e.modLink f).s.recipes = e.s.recipes := rfl
@[simp] theorem Ev.modLink_alloc (e : Ev) (f : Link → Link) : (e.modLink f).s.alloc = e.s.alloc := rfl
@[simp] theorem Ev.modLink_channels (e : Ev) (f : Link → Link) : (e.modLink f).s.channels = e.s.channels := rfl
@[simp] theorem Ev.modLink_matrix (e : Ev) (f : Link → Link) : (e.modLink f).s.matrix = e.s.matrix := rfl
@[simp] theorem Ev.modLink_link (e : Ev) (f : Link → Link) : (e.modLink f).s.link = f e.s.link := rfl
@[simp] theorem Ev.modLink_push (e : Ev) (f : Link → Link) : (e.modLink f).s.push = e.s.push := rfl
@[simp] theorem Ev.modLink_orders (e : Ev) (f : Link → Link) : (e.modLink f).s.orders = e.s.orders := rfl
@[simp] theorem Ev.modLink_settings (e : Ev) (f : Link → Link) : (e.modLink f).s.settings = e.s.settings := rfl
@[simp] theorem Ev.modLink_ports (e : Ev) (f : Link → Link) : (e.modLink f).s.ports = e.s.ports := rfl
@[simp] theorem Ev.modLink_loader (e : Ev) (f : Link → Link) : (e.modLink f).s.loader = e.s.loader := rfl
@[simp] theorem Ev.modLink_free (e : Ev) (f : Link → Link) : (e.modLink f).s.free = e.s.free := rfl
@[simp] theorem Ev.modLink_passDue (e : Ev) (f : Link → Link) : (e.modLink f).passDue = e.passDue := rfl
@[simp] theorem Ev.modLink_evalDue (e : Ev) (f : Link → Link) : (e.modLink f).evalDue = e.evalDue := rfl

/-! ### Ev.modPush -/

@[simp] theorem Ev.modPush_pending (e : Ev) (f : PushCtl → PushCtl) : (e.modPush f).s.pending = e.s.pending := rfl
@[simp] theorem Ev.modPush_line (e : Ev) (f : PushCtl → PushCtl) : (e.modPush f).s.line = e.s.line := rfl
@[simp] theorem Ev.modPush_lines (e : Ev) (f : PushCtl → PushCtl) : (e.modPush f).s.lines = e.s.lines := rfl
@[simp] theorem Ev.modPush_track (e : Ev) (f : PushCtl → PushCtl) : (e.modPush f).s.track = e.s.track := rfl
@[simp] theorem Ev.modPush_recipes (e : Ev) (f : PushCtl → PushCtl) : (e.modPush f).s.recipes = e.s.recipes := rfl
@[simp] theorem Ev.modPush_alloc (e : Ev) (f : PushCtl → PushCtl) : (e.modPush f).s.alloc = e.s.alloc := rfl
@[simp] theorem Ev.modPush_channels (e : Ev) (f : PushCtl → PushCtl) : (e.modPush f).s.channels = e.s.channels := rfl
@[simp] theorem Ev.modPush_matrix (e : Ev) (f : PushCtl → PushCtl) : (e.modPush f).s.matrix = e.s.matrix := rfl
@[simp] theorem Ev.modPush_link (e : Ev) (f : PushCtl → PushCtl) : (e.modPush f).s.link = e.s.link := rfl
@[simp] theorem Ev.modPush_push (e : Ev) (f : PushCtl → PushCtl) : (e.modPush f).s.push = f e.s.push := rfl
@[simp] theorem Ev.modPush_orders (e : Ev) (f : PushCtl → PushCtl) : (e.modPush f).s.orders = e.s.orders := rfl
@[simp] theorem Ev.modPush_settings (e : Ev) (f : PushCtl → PushCtl) : (e.modPush f).s.settings = e.s.settings := rfl
@[simp] theorem Ev.modPush_ports (e : Ev) (f : PushCtl → PushCtl) : (e.modPush f).s.ports = e.s.ports := rfl
@[simp] theorem Ev.modPush_loader (e : Ev) (f : PushCtl → PushCtl) : (e.modPush f).s.loader = e.s.loader := rfl
@[simp] theorem Ev.modPush_free (e : Ev) (f : PushCtl → PushCtl) : (e.modPush f).s.free = e.s.free := rfl
@[simp] theorem Ev.modPush_passDue (e : Ev) (f : PushCtl → PushCtl) : (e.modPush f).passDue = e.passDue := rfl
@[simp] theorem Ev.modPush_evalDue (e : Ev) (f : PushCtl → PushCtl) : (e.modPush f).evalDue = e.evalDue := rfl

/-! ### Ev.modOrders -/

@[simp] theorem Ev.modOrders_pending (e : Ev) (f : OrderMgr → OrderMgr) : (e.modOrders f).s.pending = e.s.pending := rfl
@[simp] theorem Ev.modOrders_line (e : Ev) (f : OrderMgr → OrderMgr) : (e.modOrders f).s.line = e.s.line := rfl
@[simp] theorem Ev.modOrders_lines (e : Ev) (f : OrderMgr → OrderMgr) : (e.modOrders f).s.lines = e.s.lines := rfl
@[simp] theorem Ev.modOrders_track (e : Ev) (f : OrderMgr → OrderMgr) : (e.modOrders f).s.track = e.s.track := rfl
@[simp] theorem Ev.modOrders_recipes (e : Ev) (f : OrderMgr → OrderMgr) : (e.modOrders f).s.recipes = e.s.recipes := rfl
@[simp] theorem Ev.modOrders_alloc (e : Ev) (f : OrderMgr → OrderMgr) : (e.modOrders f).s.alloc = e.s.alloc := rfl
@[simp] theorem Ev.modOrders_channels (e : Ev) (f : OrderMgr → OrderMgr) : (e.modOrders f).s.channels = e.s.channels := rfl
@[simp] theorem Ev.modOrders_matrix (e : Ev) (f : OrderMgr → OrderMgr) : (e.modOrders f).s.matrix = e.s.matrix := rfl
@[simp] theorem Ev.modOrders_link (e : Ev) (f : OrderMgr → OrderMgr) : (e.modOrders f).s.link = e.s.link := rfl
@[simp] theorem Ev.modOrders_push (e : Ev) (f : OrderMgr → OrderMgr) : (e.modOrders f).s.push = e.s.push := rfl
@[simp] theorem Ev.modOrders_orders (e : Ev) (f : OrderMgr → OrderMgr) : (e.modOrders f).s.orders = f e.s.orders := rfl
@[simp] theorem Ev.modOrders_settings (e : Ev) (f : OrderMgr → OrderMgr) : (e.modOrders f).s.settings = e.s.settings := rfl
@[simp] theorem Ev.modOrders_ports (e : Ev) (f : OrderMgr → OrderMgr) : (e.modOrders f).s.ports = e.s.ports := rfl
@[simp] theorem Ev.modOrders_loader (e : Ev) (f : OrderMgr → OrderMgr) : (e.modOrders f).s.loader = e.s.loader := rfl
@[simp] theorem Ev.modOrders_free (e : Ev) (f : OrderMgr → OrderMgr) : (e.modOrders f).s.free = e.s.free := rfl
@[simp] theorem Ev.modOrders_passDue (e : Ev) (f : OrderMgr → OrderMgr) : (e.modOrders f).passDue = e.passDue := rfl
@[simp] theorem Ev.modOrders_evalDue (e : Ev) (f : OrderMgr → OrderMgr) : (e.modOrders f).evalDue = e.evalDue := rfl

/-! ### Ev.modSettings -/

@[simp] theorem Ev.modSettings_pending (e : Ev) (f : Settings → Settings) : (e.modSettings f).s.pending = e.s.pending := rfl
@[simp] theorem Ev.modSettings_line (e : Ev) (f : Settings → Settings) : (e.modSettings f).s.line = e.s.line := rfl
@[simp] theorem Ev.modSettings_lines (e : Ev) (f : Settings → Settings) : (e.modSettings f).s.lines = e.s.lines := rfl
@[simp] theorem Ev.modSettings_track (e : Ev) (f : Settings → Settings) : (e.modSettings f).s.track = e.s.track := rfl
@[simp] theorem Ev.modSettings_recipes (e : Ev) (f : Settings → Settings) : (e.modSettings f).s.recipes = e.s.recipes := rfl
@[simp] theorem Ev.modSettings_alloc (e : Ev) (f : Settings → Settings) : (e.modSettings f).s.alloc = e.s.alloc := rfl
@[simp] theorem Ev.modSettings_channels (e : Ev) (f : Settings → Settings) : (e.modSettings f).s.channels = e.s.channels := rfl
@[simp] theorem Ev.modSettings_matrix (e : Ev) (f : Settings → Settings) : (e.modSettings f).s.matrix = e.s.matrix := rfl
@[simp] theorem Ev.modSettings_link (e : Ev) (f : Settings → Settings) : (e.modSettings f).s.link = e.s.link := rfl
@[simp] theorem Ev.modSettings_push (e : Ev) (f : Settings → Settings) : (e.modSettings f).s.push = e.s.push := rfl
@[simp] theorem Ev.modSettings_orders (e : Ev) (f : Settings → Settings) : (e.modSettings f).s.orders = e.s.orders := rfl
@[simp] theorem Ev.modSettings_settings (e : Ev) (f : Settings → Settings) : (e.modSettings f).s.settings = f e.s.settings := rfl
@[simp] theorem Ev.modSettings_ports (e : Ev) (f : Settings → Settings) : (e.modSettings f).s.ports = e.s.ports := rfl
@[simp] theorem Ev.modSettings_loader (e : Ev) (f : Settings → Settings) : (e.modSettings f).s.loader = e.s.loader := rfl
@[simp] theorem Ev.modSettings_free (e : Ev) (f : Settings → Settings) : (e.modSettings f).s.free = e.s.free := rfl
@[simp] theorem Ev.modSettings_passDue (e : Ev) (f : Settings → Settings) : (e.modSettings f).passDue = e.passDue := rfl
@[simp] theorem Ev.modSettings_evalDue (e : Ev) (f : Settings → Settings) : (e.modSettings f).evalDue = e.evalDue := rfl

/-! ### Ev.modLoader -/

@[simp] theorem Ev.modLoader_pending (e : Ev) (f : Loader → Loader) : (e.modLoader f).s.pending = e.s.pending := rfl
@[simp] theorem Ev.modLoader_line (e : Ev) (f : Loader → Loader) : (e.modLoader f).s.line = e.s.line := rfl
@[simp] theorem Ev.modLoader_lines (e : Ev) (f : Loader → Loader) : (e.modLoader f).s.lines = e.s.lines := rfl
@[simp] theorem Ev.modLoader_track (e : Ev) (f : Loader → Loader) : (e.modLoader f).s.track = e.s.track := rfl
@[simp] theorem Ev.modLoader_recipes (e : Ev) (f : Loader → Loader) : (e.modLoader f).s.recipes = e.s.recipes := rfl
@[simp] theorem Ev.modLoader_alloc (e : Ev) (f : Loader → Loader) : (e.modLoader f).s.alloc = e.s.alloc := rfl
@[simp] theorem Ev.modLoader_channels (e : Ev) (f : Loader → Loader) : (e.modLoader f).s.channels = e.s.channels := rfl
@[simp] theorem Ev.modLoader_matrix (e : Ev) (f : Loader → Loader) : (e.modLoader f).s.matrix = e.s.matrix := rfl
@[simp] theorem Ev.modLoader_link (e : Ev) (f : Loader → Loader) : (e.modLoader f).s.link = e.s.link := rfl
@[simp] theorem Ev.modLoader_push (e : Ev) (f : Loader → Loader) : (e.modLoader f).s.push = e.s.push := rfl
@[simp] theorem Ev.modLoader_orders (e : Ev) (f : Loader → Loader) : (e.modLoader f).s.orders = e.s.orders := rfl
@[simp] theorem Ev.modLoader_settings (e : Ev) (f : Loader → Loader) : (e.modLoader f).s.settings = e.s.settings := rfl
@[simp] theorem Ev.modLoader_ports (e : Ev) (f : Loader → Loader) : (e.modLoader f).s.ports = e.s.ports := rfl
@[simp] theorem Ev.modLoader_loader (e : Ev) (f : Loader → Loader) : (e.modLoader f).s.loader = f e.s.loader := rfl
@[simp] theorem Ev.modLoader_free (e : Ev) (f : Loader → Loader) : (e.modLoader f).s.free = e.s.free := rfl
@[simp] theorem Ev.modLoader_passDue (e : Ev) (f : Loader → Loader) : (e.modLoader f).passDue = e.passDue := rfl
@[simp] theorem Ev.modLoader_evalDue (e : Ev) (f : Loader → Loader) : (e.modLoader f).evalDue = e.evalDue := rfl

/-! ### Ev.modPort -/

@[simp] theorem Ev.modPort_pending (e : Ev) (p : Port) (f : PortRec → PortRec) : (e.modPort p f).s.pending = e.s.pending := rfl
@[simp] theorem Ev.modPort_line (e : Ev) (p : Port) (f : PortRec → PortRec) : (e.modPort p f).s.line = e.s.line := rfl
@[simp] theorem Ev.modPort_lines (e : Ev) (p : Port) (f : PortRec → PortRec) : (e.modPort p f).s.lines = e.s.lines := rfl
@[simp] theorem Ev.modPort_track (e : Ev) (p : Port) (f : PortRec → PortRec) : (e.modPort p f).s.track = e.s.track := rfl
@[simp] theorem Ev.modPort_recipes (e : Ev) (p : Port) (f : PortRec → PortRec) : (e.modPort p f).s.recipes = e.s.recipes := rfl
@[simp] theorem Ev.modPort_alloc (e : Ev) (p : Port) (f : PortRec → PortRec) : (e.modPort p f).s.alloc = e.s.alloc := rfl
@[simp] theorem Ev.modPort_channels (e : Ev) (p : Port) (f : PortRec → PortRec) : (e.modPort p f).s.channels = e.s.channels := rfl
@[simp] theorem Ev.modPort_matrix (e : Ev) (p : Port) (f : PortRec → PortRec) : (e.modPort p f).s.matrix = e.s.matrix := rfl
@[simp] theorem Ev.modPort_link (e : Ev) (p : Port) (f : PortRec → PortRec) : (e.modPort p f).s.link = e.s.link := rfl
@[simp] theorem Ev.modPort_push (e : Ev) (p : Port) (f : PortRec → PortRec) : (e.modPort p f).s.push = e.s.push := rfl
@[simp] theorem Ev.modPort_orders (e : Ev) (p : Port) (f : PortRec → PortRec) : (e.modPort p f).s.orders = e.s.orders := rfl
@[simp] theorem Ev.modPort_settings (e : Ev) (p : Port) (f : PortRec → PortRec) : (e.modPort p f).s.settings = e.s.settings := rfl
@[simp] theorem Ev.modPort_ports (e : Ev) (p : Port) (f : PortRec → PortRec) : (e.modPort p f).s.ports = e.s.ports.set p (f (e.s.ports.get p)) := rfl
@[simp] theorem Ev.modPort_loader (e : Ev) (p : Port) (f : PortRec → PortRec) : (e.modPort p f).s.loader = e.s.loader := rfl
@[simp] theorem Ev.modPort_free (e : Ev) (p : Port) (f : PortRec → PortRec) : (e.modPort p f).s.free = e.s.free := rfl
@[simp] theorem Ev.modPort_passDue (e : Ev) (p : Port) (f : PortRec → PortRec) : (e.modPort p f).passDue = e.passDue := rfl
@[simp] theorem Ev.modPort_evalDue (e : Ev) (p : Port) (f : PortRec → PortRec) : (e.modPort p f).evalDue = e.evalDue := rfl

/-! ### Ev.modChannel -/

@[simp] theorem Ev.modChannel_pending (e : Ev) (u : Inv) (f : Channel → Channel) : (e.modChannel u f).s.pending = e.s.pending := rfl
@[simp] theorem Ev.modChannel_line (e : Ev) (u : Inv) (f : Channel → Channel) : (e.modChannel u f).s.line = e.s.line := rfl
@[simp] theorem Ev.modChannel_lines (e : Ev) (u : Inv) (f : Channel → Channel) : (e.modChannel u f).s.lines = e.s.lines := rfl
@[simp] theorem Ev.modChannel_track (e : Ev) (u : Inv) (f : Channel → Channel) : (e.modChannel u f).s.track = e.s.track := rfl
@[simp] theorem Ev.modChannel_recipes (e : Ev) (u : Inv) (f : Channel → Channel) : (e.modChannel u f).s.recipes = e.s.recipes := rfl
@[simp] theorem Ev.modChannel_alloc (e : Ev) (u : Inv) (f : Channel → Channel) : (e.modChannel u f).s.alloc = e.s.alloc := rfl
@[simp] theorem Ev.modChannel_channels (e : Ev) (u : Inv) (f : Channel → Channel) : (e.modChannel u f).s.channels = e.s.channels.set u (f (e.s.channels.get u)) := rfl
@[simp] theorem Ev.modChannel_matrix (e : Ev) (u : Inv) (f : Channel → Channel) : (e.modChannel u f).s.matrix = e.s.matrix := rfl
@[simp] theorem Ev.modChannel_link (e : Ev) (u : Inv) (f : Channel → Channel) : (e.modChannel u f).s.link = e.s.link := rfl
@[simp] theorem Ev.modChannel_push (e : Ev) (u : Inv) (f : Channel → Channel) : (e.modChannel u f).s.push = e.s.push := rfl
@[simp] theorem Ev.modChannel_orders (e : Ev) (u : Inv) (f : Channel → Channel) : (e.modChannel u f).s.orders = e.s.orders := rfl
@[simp] theorem Ev.modChannel_settings (e : Ev) (u : Inv) (f : Channel → Channel) : (e.modChannel u f).s.settings = e.s.settings := rfl
@[simp] theorem Ev.modChannel_ports (e : Ev) (u : Inv) (f : Channel → Channel) : (e.modChannel u f).s.ports = e.s.ports := rfl
@[simp] theorem Ev.modChannel_loader (e : Ev) (u : Inv) (f : Channel → Channel) : (e.modChannel u f).s.loader = e.s.loader := rfl
@[simp] theorem Ev.modChannel_free (e : Ev) (u : Inv) (f : Channel → Channel) : (e.modChannel u f).s.free = e.s.free := rfl
@[simp] theorem Ev.modChannel_passDue (e : Ev) (u : Inv) (f : Channel → Channel) : (e.modChannel u f).passDue = e.passDue := rfl
@[simp] theorem Ev.modChannel_evalDue (e : Ev) (u : Inv) (f : Channel → Channel) : (e.modChannel u f).evalDue = e.evalDue := rfl

/-! ### The marks of an event -/

@[simp] theorem Ev.duePass_s (e : Ev) : e.duePass.s = e.s := rfl
@[simp] theorem Ev.duePass_evalDue (e : Ev) : e.duePass.evalDue = e.evalDue := rfl
@[simp] theorem Ev.dueEval_s (e : Ev) : e.dueEval.s = e.s := rfl
@[simp] theorem Ev.dueEval_passDue (e : Ev) : e.dueEval.passDue = e.passDue := rfl
@[simp] theorem Ev.of_s (s : State) : (Ev.of s).s = s := rfl
@[simp] theorem Ev.of_passDue (s : State) : (Ev.of s).passDue = false := rfl
@[simp] theorem Ev.of_evalDue (s : State) : (Ev.of s).evalDue = false := rfl

/-! ### Items per inverter and per port -/

@[simp] theorem PerInv.get_set_same {α : Type} (f : PerInv α) (u : Inv) (x : α) : (f.set u x).get u = x := by
  cases u <;> rfl

theorem PerInv.get_set_other {α : Type} (f : PerInv α) {u v : Inv} (x : α) (h : v ≠ u) :
    (f.set u x).get v = f.get v := by
  cases u <;> cases v <;> first | rfl | exact absurd rfl h

@[simp] theorem PerPort.get_set_same {α : Type} (f : PerPort α) (p : Port) (x : α) : (f.set p x).get p = x := by
  cases p <;> rfl

theorem PerPort.get_set_other {α : Type} (f : PerPort α) {p q : Port} (x : α) (h : q ≠ p) :
    (f.set p x).get q = f.get q := by
  cases p <;> cases q <;> first | rfl | exact absurd rfl h

@[simp] theorem PerPort.set_set {α : Type} (f : PerPort α) (p : Port) (x y : α) : (f.set p x).set p y = f.set p y := by
  cases p <;> rfl

@[simp] theorem PerPort.set_get {α : Type} (f : PerPort α) (p : Port) : f.set p (f.get p) = f := by
  cases p <;> rfl

@[simp] theorem PerInv.set_set {α : Type} (f : PerInv α) (u : Inv) (x y : α) : (f.set u x).set u y = f.set u y := by
  cases u <;> rfl

@[simp] theorem PerInv.set_get {α : Type} (f : PerInv α) (u : Inv) : f.set u (f.get u) = f := by
  cases u <;> rfl

@[simp] theorem PerInv.get_all {α : Type} (x : α) (u : Inv) : (PerInv.all x).get u = x := by
  cases u <;> rfl

/-! ### State.modPort -/

@[simp] theorem State.modPort_pending (s : State) (p : Port) (f : PortRec → PortRec) : (s.modPort p f).pending = s.pending := rfl
@[simp] theorem State.modPort_line (s : State) (p : Port) (f : PortRec → PortRec) : (s.modPort p f).line = s.line := rfl
@[simp] theorem State.modPort_lines (s : State) (p : Port) (f : PortRec → PortRec) : (s.modPort p f).lines = s.lines := rfl
@[simp] theorem State.modPort_track (s : State) (p : Port) (f : PortRec → PortRec) : (s.modPort p f).track = s.track := rfl
@[simp] theorem State.modPort_recipes (s : State) (p : Port) (f : PortRec → PortRec) : (s.modPort p f).recipes = s.recipes := rfl
@[simp] theorem State.modPort_alloc (s : State) (p : Port) (f : PortRec → PortRec) : (s.modPort p f).alloc = s.alloc := rfl
@[simp] theorem State.modPort_channels (s : State) (p : Port) (f : PortRec → PortRec) : (s.modPort p f).channels = s.channels := rfl
@[simp] theorem State.modPort_matrix (s : State) (p : Port) (f : PortRec → PortRec) : (s.modPort p f).matrix = s.matrix := rfl
@[simp] theorem State.modPort_link (s : State) (p : Port) (f : PortRec → PortRec) : (s.modPort p f).link = s.link := rfl
@[simp] theorem State.modPort_push (s : State) (p : Port) (f : PortRec → PortRec) : (s.modPort p f).push = s.push := rfl
@[simp] theorem State.modPort_orders (s : State) (p : Port) (f : PortRec → PortRec) : (s.modPort p f).orders = s.orders := rfl
@[simp] theorem State.modPort_settings (s : State) (p : Port) (f : PortRec → PortRec) : (s.modPort p f).settings = s.settings := rfl
@[simp] theorem State.modPort_ports (s : State) (p : Port) (f : PortRec → PortRec) : (s.modPort p f).ports = s.ports.set p (f (s.ports.get p)) := rfl
@[simp] theorem State.modPort_loader (s : State) (p : Port) (f : PortRec → PortRec) : (s.modPort p f).loader = s.loader := rfl
@[simp] theorem State.modPort_free (s : State) (p : Port) (f : PortRec → PortRec) : (s.modPort p f).free = s.free := rfl

/-- Two updates of one port are one. -/
@[simp] theorem State.modPort_modPort (s : State) (p : Port) (f g : PortRec → PortRec) :
    (s.modPort p f).modPort p g = s.modPort p fun r => g (f r) := by
  cases p <;> rfl

theorem State.modPort_get_other (s : State) {p q : Port} (f : PortRec → PortRec) (h : q ≠ p) :
    (s.modPort p f).ports.get q = s.ports.get q := by
  simp [PerPort.get_set_other _ _ h]

end Sys2Proof.Machine
end

