-- ==== Sys2Proof/Laws/Views.lean ====
section
/-! SUPPORT. What the operations of each block leave as it was: one lemma per operation and view. -/

namespace Sys2Proof.Machine

/-- What only the transactions of a port and the hardware reset change of it: OVERRUN, chip select with the status byte taken
at its assertion, and what the port shifted out. -/
def PortRec.wire (r : PortRec) := (r.overrun, r.select, r.shifted)

def State.wires (s : State) := (s.ports.press.wire, s.ports.feeder.wire, s.ports.supervisor.wire)

/-- Every block but the allocator, the channels, the matrix, the link and the ports, of which it has the wires. -/
def State.offPlant (s : State) :=
  (s.pending, s.line, s.lines, s.track, s.recipes, s.push, s.orders, s.settings, s.loader, s.free, s.wires)

/-- Every block but the push controller, the order manager, the recipe table, the DIVERT output and the ports, of which it has
the wires. -/
def State.offOrders (s : State) :=
  (s.pending, s.line, (s.lines.lineStop, s.lines.feedback, s.lines.pyro), s.track, s.alloc, s.channels, s.matrix, s.link,
    s.settings, s.loader, s.free, s.wires)

/-- What only configuration requests, the loader, the inputs themselves and the transactions of a port change. -/
def State.fixedPart (s : State) :=
  (s.pending, (s.lines.lineStop, s.lines.feedback, s.lines.pyro), s.track.geometry, s.settings, s.loader, s.free, s.wires)

theorem State.wire_of_wires {s t : State} (h : s.wires = t.wires) (p : Port) :
    (s.ports.get p).wire = (t.ports.get p).wire := by
  simp only [State.wires, Prod.mk.injEq] at h
  cases p
  · exact h.1
  · exact h.2.1
  · exact h.2.2

theorem State.wires_of_ports {s t : State} (h : s.ports = t.ports) : s.wires = t.wires := by
  simp only [State.wires, h]

theorem State.wires_of_fixedPart {s t : State} (h : s.fixedPart = t.fixedPart) : s.wires = t.wires := by
  simp only [State.fixedPart, Prod.mk.injEq] at h
  exact h.2.2.2.2.2.2

theorem State.wire_of_fixedPart {s t : State} (h : s.fixedPart = t.fixedPart) (p : Port) :
    (s.ports.get p).wire = (t.ports.get p).wire := State.wire_of_wires (State.wires_of_fixedPart h) p

theorem State.wires_set (s : State) (p : Port) {r : PortRec} (h : r.wire = (s.ports.get p).wire) :
    ({ s with ports := s.ports.set p r } : State).wires = s.wires := by
  cases p <;> simp only [State.wires, PerPort.set] <;> rw [h] <;> rfl

@[simp] theorem Ev.modAlloc_offPlant (e : Ev) (f : Allocator → Allocator) : (e.modAlloc f).s.offPlant = e.s.offPlant := rfl

@[simp] theorem Ev.modAlloc_fixedPart (e : Ev) (f : Allocator → Allocator) : (e.modAlloc f).s.fixedPart = e.s.fixedPart := rfl

@[simp] theorem Ev.modMatrix_offPlant (e : Ev) (f : List Crosspoint → List Crosspoint) : (e.modMatrix f).s.offPlant = e.s.offPlant := rfl

@[simp] theorem Ev.modMatrix_fixedPart (e : Ev) (f : List Crosspoint → List Crosspoint) : (e.modMatrix f).s.fixedPart = e.s.fixedPart := rfl

@[simp] theorem Ev.modLink_offPlant (e : Ev) (f : Link → Link) : (e.modLink f).s.offPlant = e.s.offPlant := rfl

@[simp] theorem Ev.modLink_fixedPart (e : Ev) (f : Link → Link) : (e.modLink f).s.fixedPart = e.s.fixedPart := rfl

@[simp] theorem Ev.modChannel_offPlant (e : Ev) (u : Inv) (f : Channel → Channel) : (e.modChannel u f).s.offPlant = e.s.offPlant := rfl

@[simp] theorem Ev.modChannel_fixedPart (e : Ev) (u : Inv) (f : Channel → Channel) : (e.modChannel u f).s.fixedPart = e.s.fixedPart := rfl

theorem Ev.modPort_offPlant (e : Ev) (p : Port) (f : PortRec → PortRec) (h : ∀ r, (f r).wire = r.wire) :
    (e.modPort p f).s.offPlant = e.s.offPlant := by
  cases p <;> simp only [State.offPlant, State.wires, Ev.modPort, PerPort.set, PerPort.get, h]

theorem Ev.modPort_offOrders (e : Ev) (p : Port) (f : PortRec → PortRec) (h : ∀ r, (f r).wire = r.wire) :
    (e.modPort p f).s.offOrders = e.s.offOrders := by
  cases p <;> simp only [State.offOrders, State.wires, Ev.modPort, PerPort.set, PerPort.get, h]

theorem Ev.modPort_fixedPart (e : Ev) (p : Port) (f : PortRec → PortRec) (h : ∀ r, (f r).wire = r.wire) :
    (e.modPort p f).s.fixedPart = e.s.fixedPart := by
  cases p <;> simp only [State.fixedPart, State.wires, Ev.modPort, PerPort.set, PerPort.get, h]

@[simp] theorem Ev.modPush_offOrders (e : Ev) (f : PushCtl → PushCtl) : (e.modPush f).s.offOrders = e.s.offOrders := rfl

@[simp] theorem Ev.modPush_fixedPart (e : Ev) (f : PushCtl → PushCtl) : (e.modPush f).s.fixedPart = e.s.fixedPart := rfl

@[simp] theorem Ev.modOrders_offOrders (e : Ev) (f : OrderMgr → OrderMgr) : (e.modOrders f).s.offOrders = e.s.offOrders := rfl

@[simp] theorem Ev.modOrders_fixedPart (e : Ev) (f : OrderMgr → OrderMgr) : (e.modOrders f).s.fixedPart = e.s.fixedPart := rfl

@[simp] theorem Ev.modRecipes_offOrders (e : Ev) (f : RecipeTable → RecipeTable) : (e.modRecipes f).s.offOrders = e.s.offOrders := rfl

@[simp] theorem Ev.modRecipes_fixedPart (e : Ev) (f : RecipeTable → RecipeTable) : (e.modRecipes f).s.fixedPart = e.s.fixedPart := rfl

@[simp] theorem Ev.modLine_fixedPart (e : Ev) (f : LineCtl → LineCtl) : (e.modLine f).s.fixedPart = e.s.fixedPart := rfl

theorem Ev.forEach_view {α β : Type} (v : State → β) (xs : List α) (f : α → Ev → Ev)
    (h : ∀ x e, v (f x e).s = v e.s) (e : Ev) : v (e.forEach xs f).s = v e.s := by
  unfold Ev.forEach
  induction xs generalizing e with
  | nil => rfl
  | cons x xs ih => rw [List.foldl_cons, ih, h]

@[simp] theorem Ev.forEach_offPlant {α : Type} (xs : List α) (f : α → Ev → Ev)
    (h : ∀ x e, (f x e).s.offPlant = e.s.offPlant) (e : Ev) : (e.forEach xs f).s.offPlant = e.s.offPlant :=
  Ev.forEach_view _ xs f h e

@[simp] theorem Ev.forEach_fixedPart {α : Type} (xs : List α) (f : α → Ev → Ev)
    (h : ∀ x e, (f x e).s.fixedPart = e.s.fixedPart) (e : Ev) : (e.forEach xs f).s.fixedPart = e.s.fixedPart :=
  Ev.forEach_view _ xs f h e

theorem State.fixedPart_of_offPlant {s t : State} (h : s.offPlant = t.offPlant) : s.fixedPart = t.fixedPart := by
  simp only [State.offPlant, Prod.mk.injEq] at h
  simp [State.fixedPart, h]

theorem State.fixedPart_of_offOrders {s t : State} (h : s.offOrders = t.offOrders) : s.fixedPart = t.fixedPart := by
  simp only [State.offOrders, Prod.mk.injEq] at h
  simp [State.fixedPart, h]


@[simp] theorem Ev.raise_offPlant (e : Ev) (p : Port) (k : EventKind) : (e.raise p k).s.offPlant = e.s.offPlant :=
  Ev.modPort_offPlant e p _ fun _ => rfl

@[simp] theorem Ev.raise_offOrders (e : Ev) (p : Port) (k : EventKind) : (e.raise p k).s.offOrders = e.s.offOrders :=
  Ev.modPort_offOrders e p _ fun _ => rfl

@[simp] theorem Ev.raise_fixedPart (e : Ev) (p : Port) (k : EventKind) : (e.raise p k).s.fixedPart = e.s.fixedPart :=
  Ev.modPort_fixedPart e p _ fun _ => rfl

@[simp] theorem Ev.raiseModeChanged_offPlant (e : Ev) : e.raiseModeChanged.s.offPlant = e.s.offPlant := rfl

@[simp] theorem Ev.raiseModeChanged_offOrders (e : Ev) : e.raiseModeChanged.s.offOrders = e.s.offOrders := rfl

@[simp] theorem Ev.raiseModeChanged_fixedPart (e : Ev) : e.raiseModeChanged.s.fixedPart = e.s.fixedPart := rfl

@[simp] theorem Ev.learn_offOrders (e : Ev) (i t : Nat) : (e.learn i t).s.offOrders = e.s.offOrders := by
  simp only [Ev.learn]
  (repeat' split) <;> simp

@[simp] theorem Ev.learn_fixedPart (e : Ev) (i t : Nat) : (e.learn i t).s.fixedPart = e.s.fixedPart := by
  simp only [Ev.learn]
  (repeat' split) <;> simp

@[simp] theorem Ev.modLines_divert (e : Ev) (b : Bool) :
    (e.modLines fun l => { l with divert := b }).s.offOrders = e.s.offOrders := rfl

@[simp] theorem Ev.enqueue_offPlant (e : Ev) (x : LinkEntry) : (e.enqueue x).s.offPlant = e.s.offPlant := by
  simp only [Ev.enqueue]
  (repeat' split) <;> simp

@[simp] theorem Ev.enqueue_fixedPart (e : Ev) (x : LinkEntry) : (e.enqueue x).s.fixedPart = e.s.fixedPart :=
  State.fixedPart_of_offPlant (by simp)

@[simp] theorem Ev.withdraw_offPlant (e : Ev) (u : Inv) : (e.withdraw u).s.offPlant = e.s.offPlant := by
  simp only [Ev.withdraw]
  (repeat' split) <;> simp

@[simp] theorem Ev.withdraw_fixedPart (e : Ev) (u : Inv) : (e.withdraw u).s.fixedPart = e.s.fixedPart :=
  State.fixedPart_of_offPlant (by simp)

@[simp] theorem Ev.withdrawClear_offPlant (e : Ev) (u : Inv) : (e.withdrawClear u).s.offPlant = e.s.offPlant := by
  simp only [Ev.withdrawClear]
  (repeat' split) <;> simp

@[simp] theorem Ev.withdrawClear_fixedPart (e : Ev) (u : Inv) : (e.withdrawClear u).s.fixedPart = e.s.fixedPart :=
  State.fixedPart_of_offPlant (by simp)

@[simp] theorem Ev.withdrawAll_offPlant (e : Ev) (u : Inv) : (e.withdrawAll u).s.offPlant = e.s.offPlant := by
  simp only [Ev.withdrawAll]
  (repeat' split) <;> simp

@[simp] theorem Ev.withdrawAll_fixedPart (e : Ev) (u : Inv) : (e.withdrawAll u).s.fixedPart = e.s.fixedPart :=
  State.fixedPart_of_offPlant (by simp)

@[simp] theorem Ev.transmit_offPlant (e : Ev) (x : LinkEntry) : (e.transmit x).s.offPlant = e.s.offPlant := by
  simp only [Ev.transmit]
  (repeat' split) <;> simp

@[simp] theorem Ev.transmit_fixedPart (e : Ev) (x : LinkEntry) : (e.transmit x).s.fixedPart = e.s.fixedPart :=
  State.fixedPart_of_offPlant (by simp)

@[simp] theorem Ev.releaseLine_offPlant (e : Ev) : (e.releaseLine).s.offPlant = e.s.offPlant := rfl

@[simp] theorem Ev.releaseLine_fixedPart (e : Ev) : (e.releaseLine).s.fixedPart = e.s.fixedPart :=
  State.fixedPart_of_offPlant (by simp)

@[simp] theorem Ev.noteSent_offPlant (e : Ev) (x : LinkEntry) : (e.noteSent x).s.offPlant = e.s.offPlant := by
  simp only [Ev.noteSent]
  (repeat' split) <;> simp

@[simp] theorem Ev.noteSent_fixedPart (e : Ev) (x : LinkEntry) : (e.noteSent x).s.fixedPart = e.s.fixedPart :=
  State.fixedPart_of_offPlant (by simp)

@[simp] theorem Ev.enterState_offPlant (e : Ev) (u : Inv) (st : ChannelState) : (e.enterState u st).s.offPlant = e.s.offPlant := by
  simp only [Ev.enterState]
  (repeat' split) <;> simp

@[simp] theorem Ev.enterState_fixedPart (e : Ev) (u : Inv) (st : ChannelState) : (e.enterState u st).s.fixedPart = e.s.fixedPart :=
  State.fixedPart_of_offPlant (by simp)

@[simp] theorem Ev.modCrosspoint_offPlant (e : Ev) (u : Inv) (j : Nat) (f : Crosspoint → Crosspoint) : (e.modCrosspoint u j f).s.offPlant = e.s.offPlant := by
  simp only [Ev.modCrosspoint]
  (repeat' split) <;> simp

@[simp] theorem Ev.modCrosspoint_fixedPart (e : Ev) (u : Inv) (j : Nat) (f : Crosspoint → Crosspoint) : (e.modCrosspoint u j f).s.fixedPart = e.s.fixedPart :=
  State.fixedPart_of_offPlant (by simp)

@[simp] theorem Ev.closeDrive_offPlant (e : Ev) (u : Inv) (j : Nat) : (e.closeDrive u j).s.offPlant = e.s.offPlant := by
  simp only [Ev.closeDrive]
  (repeat' split) <;> simp

@[simp] theorem Ev.closeDrive_fixedPart (e : Ev) (u : Inv) (j : Nat) : (e.closeDrive u j).s.fixedPart = e.s.fixedPart :=
  State.fixedPart_of_offPlant (by simp)

@[simp] theorem Ev.openDrive_offPlant (e : Ev) (u : Inv) (j : Nat) : (e.openDrive u j).s.offPlant = e.s.offPlant := by
  simp only [Ev.openDrive]
  (repeat' split) <;> simp

@[simp] theorem Ev.openDrive_fixedPart (e : Ev) (u : Inv) (j : Nat) : (e.openDrive u j).s.fixedPart = e.s.fixedPart :=
  State.fixedPart_of_offPlant (by simp)

@[simp] theorem Ev.stopSlice_offPlant (e : Ev) (u : Inv) : (e.stopSlice u).s.offPlant = e.s.offPlant := by
  simp only [Ev.stopSlice]
  (repeat' split) <;> simp

@[simp] theorem Ev.stopSlice_fixedPart (e : Ev) (u : Inv) : (e.stopSlice u).s.fixedPart = e.s.fixedPart :=
  State.fixedPart_of_offPlant (by simp)

@[simp] theorem Ev.enterStopping_offPlant (e : Ev) (u : Inv) : (e.enterStopping u).s.offPlant = e.s.offPlant := by
  simp only [Ev.enterStopping]
  (repeat' split) <;> simp

@[simp] theorem Ev.enterStopping_fixedPart (e : Ev) (u : Inv) : (e.enterStopping u).s.fixedPart = e.s.fixedPart :=
  State.fixedPart_of_offPlant (by simp)

@[simp] theorem Ev.enterOpening_offPlant (e : Ev) (u : Inv) : (e.enterOpening u).s.offPlant = e.s.offPlant := by
  simp only [Ev.enterOpening]
  (repeat' split) <;> simp

@[simp] theorem Ev.enterOpening_fixedPart (e : Ev) (u : Inv) : (e.enterOpening u).s.fixedPart = e.s.fixedPart :=
  State.fixedPart_of_offPlant (by simp)

@[simp] theorem Ev.disconnect_offPlant (e : Ev) (u : Inv) : (e.disconnect u).s.offPlant = e.s.offPlant := by
  simp only [Ev.disconnect]
  (repeat' split) <;> simp

@[simp] theorem Ev.disconnect_fixedPart (e : Ev) (u : Inv) : (e.disconnect u).s.fixedPart = e.s.fixedPart :=
  State.fixedPart_of_offPlant (by simp)

@[simp] theorem Ev.withdrawSetOutput_offPlant (e : Ev) (u : Inv) : (e.withdrawSetOutput u).s.offPlant = e.s.offPlant := by
  simp only [Ev.withdrawSetOutput]
  (repeat' split) <;> simp

@[simp] theorem Ev.withdrawSetOutput_fixedPart (e : Ev) (u : Inv) : (e.withdrawSetOutput u).s.fixedPart = e.s.fixedPart :=
  State.fixedPart_of_offPlant (by simp)

@[simp] theorem Ev.commandSetOutput_offPlant (e : Ev) (u : Inv) (kw : Nat) : (e.commandSetOutput u kw).s.offPlant = e.s.offPlant := by
  simp only [Ev.commandSetOutput]
  (repeat' split) <;> simp

@[simp] theorem Ev.commandSetOutput_fixedPart (e : Ev) (u : Inv) (kw : Nat) : (e.commandSetOutput u kw).s.fixedPart = e.s.fixedPart :=
  State.fixedPart_of_offPlant (by simp)

@[simp] theorem Ev.takeDeferred_offPlant (e : Ev) (u : Inv) : (e.takeDeferred u).s.offPlant = e.s.offPlant := by
  simp only [Ev.takeDeferred]
  (repeat' split) <;> simp

@[simp] theorem Ev.takeDeferred_fixedPart (e : Ev) (u : Inv) : (e.takeDeferred u).s.fixedPart = e.s.fixedPart :=
  State.fixedPart_of_offPlant (by simp)

@[simp] theorem Ev.setPending_offPlant (e : Ev) (u : Inv) (c : PendingCause) : (e.setPending u c).s.offPlant = e.s.offPlant := by
  simp only [Ev.setPending]
  (repeat' split) <;> simp

@[simp] theorem Ev.setPending_fixedPart (e : Ev) (u : Inv) (c : PendingCause) : (e.setPending u c).s.fixedPart = e.s.fixedPart :=
  State.fixedPart_of_offPlant (by simp)

@[simp] theorem Ev.modCoil_offPlant (e : Ev) (j : Nat) (f : Coil → Coil) : (e.modCoil j f).s.offPlant = e.s.offPlant := by
  simp only [Ev.modCoil]
  (repeat' split) <;> simp

@[simp] theorem Ev.modCoil_fixedPart (e : Ev) (j : Nat) (f : Coil → Coil) : (e.modCoil j f).s.fixedPart = e.s.fixedPart :=
  State.fixedPart_of_offPlant (by simp)

@[simp] theorem Ev.setCoilState_offPlant (e : Ev) (j : Nat) (st : CoilState) : (e.setCoilState j st).s.offPlant = e.s.offPlant := by
  simp only [Ev.setCoilState]
  (repeat' split) <;> simp

@[simp] theorem Ev.setCoilState_fixedPart (e : Ev) (j : Nat) (st : CoilState) : (e.setCoilState j st).s.fixedPart = e.s.fixedPart :=
  State.fixedPart_of_offPlant (by simp)

@[simp] theorem Ev.joinTest_offPlant (e : Ev) (j : Nat) : (e.joinTest j).s.offPlant = e.s.offPlant := by
  simp only [Ev.joinTest]
  (repeat' split) <;> simp

@[simp] theorem Ev.joinTest_fixedPart (e : Ev) (j : Nat) : (e.joinTest j).s.fixedPart = e.s.fixedPart :=
  State.fixedPart_of_offPlant (by simp)

@[simp] theorem Ev.joinAll_offPlant (e : Ev) : (e.joinAll).s.offPlant = e.s.offPlant := by
  exact Ev.forEach_offPlant _ _ (fun _ _ => Ev.joinTest_offPlant _ _) e

@[simp] theorem Ev.joinAll_fixedPart (e : Ev) : (e.joinAll).s.fixedPart = e.s.fixedPart :=
  State.fixedPart_of_offPlant (by simp)

@[simp] theorem Ev.leaveQueue_offPlant (e : Ev) (j : Nat) : (e.leaveQueue j).s.offPlant = e.s.offPlant := by
  simp only [Ev.leaveQueue]
  (repeat' split) <;> simp

@[simp] theorem Ev.leaveQueue_fixedPart (e : Ev) (j : Nat) : (e.leaveQueue j).s.fixedPart = e.s.fixedPart :=
  State.fixedPart_of_offPlant (by simp)

@[simp] theorem Ev.enterUnpowered_offPlant (e : Ev) (j : Nat) : (e.enterUnpowered j).s.offPlant = e.s.offPlant := by
  simp only [Ev.enterUnpowered]
  (repeat' split) <;> simp

@[simp] theorem Ev.enterUnpowered_fixedPart (e : Ev) (j : Nat) : (e.enterUnpowered j).s.fixedPart = e.s.fixedPart :=
  State.fixedPart_of_offPlant (by simp)

@[simp] theorem Ev.coilFreed_offPlant (e : Ev) (j : Nat) : (e.coilFreed j).s.offPlant = e.s.offPlant := by
  simp only [Ev.coilFreed]
  (repeat' split) <;> simp

@[simp] theorem Ev.coilFreed_fixedPart (e : Ev) (j : Nat) : (e.coilFreed j).s.fixedPart = e.s.fixedPart :=
  State.fixedPart_of_offPlant (by simp)

@[simp] theorem Ev.release_offPlant (e : Ev) (u : Inv) (cause : ReleaseCause) : (e.release u cause).s.offPlant = e.s.offPlant := by
  simp only [Ev.release]
  (repeat' split) <;> simp

@[simp] theorem Ev.release_fixedPart (e : Ev) (u : Inv) (cause : ReleaseCause) : (e.release u cause).s.fixedPart = e.s.fixedPart :=
  State.fixedPart_of_offPlant (by simp)

@[simp] theorem Ev.coilOpened_offPlant (e : Ev) (u : Inv) (j : Nat) : (e.coilOpened u j).s.offPlant = e.s.offPlant := by
  simp only [Ev.coilOpened]
  (repeat' split) <;> simp

@[simp] theorem Ev.coilOpened_fixedPart (e : Ev) (u : Inv) (j : Nat) : (e.coilOpened u j).s.fixedPart = e.s.fixedPart :=
  State.fixedPart_of_offPlant (by simp)

@[simp] theorem Ev.lockCoil_offPlant (e : Ev) (j : Nat) : (e.lockCoil j).s.offPlant = e.s.offPlant := by
  simp only [Ev.lockCoil]
  (repeat' split) <;> simp

@[simp] theorem Ev.lockCoil_fixedPart (e : Ev) (j : Nat) : (e.lockCoil j).s.fixedPart = e.s.fixedPart :=
  State.fixedPart_of_offPlant (by simp)

@[simp] theorem Ev.failureReported_offPlant (e : Ev) (j : Nat) : (e.failureReported j).s.offPlant = e.s.offPlant := by
  simp only [Ev.failureReported]
  (repeat' split) <;> simp

@[simp] theorem Ev.failureReported_fixedPart (e : Ev) (j : Nat) : (e.failureReported j).s.fixedPart = e.s.fixedPart :=
  State.fixedPart_of_offPlant (by simp)

@[simp] theorem Ev.actOnReport_offPlant (e : Ev) (j : Nat) : (e.actOnReport j).s.offPlant = e.s.offPlant := by
  simp only [Ev.actOnReport]
  (repeat' split) <;> simp

@[simp] theorem Ev.actOnReport_fixedPart (e : Ev) (j : Nat) : (e.actOnReport j).s.fixedPart = e.s.fixedPart :=
  State.fixedPart_of_offPlant (by simp)

@[simp] theorem Ev.reportCoils_offPlant (e : Ev) (js : List Nat) : (e.reportCoils js).s.offPlant = e.s.offPlant := by
  simp only [Ev.reportCoils]
  rw [Ev.forEach_offPlant _ _ (fun _ _ => Ev.actOnReport_offPlant _ _),
    Ev.forEach_offPlant _ _ (fun _ _ => Ev.modCoil_offPlant _ _ _)]

@[simp] theorem Ev.reportCoils_fixedPart (e : Ev) (js : List Nat) : (e.reportCoils js).s.fixedPart = e.s.fixedPart :=
  State.fixedPart_of_offPlant (by simp)

@[simp] theorem Ev.reportAll_offPlant (e : Ev) : (e.reportAll).s.offPlant = e.s.offPlant := by
  simp only [Ev.reportAll]
  (repeat' split) <;> simp

@[simp] theorem Ev.reportAll_fixedPart (e : Ev) : (e.reportAll).s.fixedPart = e.s.fixedPart :=
  State.fixedPart_of_offPlant (by simp)

@[simp] theorem Ev.reclassify_offPlant (e : Ev) : (e.reclassify).s.offPlant = e.s.offPlant := by
  refine Ev.forEach_offPlant _ _ (fun j e => ?_) e
  (repeat' split) <;> simp

@[simp] theorem Ev.reclassify_fixedPart (e : Ev) : (e.reclassify).s.fixedPart = e.s.fixedPart :=
  State.fixedPart_of_offPlant (by simp)

@[simp] theorem Ev.grant_offPlant (e : Ev) (u : Inv) (j : Nat) : (e.grant u j).s.offPlant = e.s.offPlant := by
  simp only [Ev.grant]
  (repeat' split) <;> simp

@[simp] theorem Ev.grant_fixedPart (e : Ev) (u : Inv) (j : Nat) : (e.grant u j).s.fixedPart = e.s.fixedPart :=
  State.fixedPart_of_offPlant (by simp)

@[simp] theorem Ev.offer_offPlant (e : Ev) (u : Inv) : (e.offer u).s.offPlant = e.s.offPlant := by
  simp only [Ev.offer]
  (repeat' split) <;> simp

@[simp] theorem Ev.offer_fixedPart (e : Ev) (u : Inv) : (e.offer u).s.fixedPart = e.s.fixedPart :=
  State.fixedPart_of_offPlant (by simp)

@[simp] theorem Ev.allocationPass_offPlant (e : Ev) : (e.allocationPass).s.offPlant = e.s.offPlant := by
  simp only [Ev.allocationPass]
  split
  · exact Ev.forEach_offPlant _ _ (fun _ _ => Ev.offer_offPlant _ _) e
  · rfl

@[simp] theorem Ev.allocationPass_fixedPart (e : Ev) : (e.allocationPass).s.fixedPart = e.s.fixedPart :=
  State.fixedPart_of_offPlant (by simp)

@[simp] theorem Ev.raiseSetpoint_offPlant (e : Ev) (u : Inv) (j : Nat) : (e.raiseSetpoint u j).s.offPlant = e.s.offPlant := by
  simp only [Ev.raiseSetpoint]
  (repeat' split) <;> simp

@[simp] theorem Ev.raiseSetpoint_fixedPart (e : Ev) (u : Inv) (j : Nat) : (e.raiseSetpoint u j).s.fixedPart = e.s.fixedPart :=
  State.fixedPart_of_offPlant (by simp)

@[simp] theorem Ev.reduceTo_offPlant (e : Ev) (u : Inv) (kw : Nat) : (e.reduceTo u kw).s.offPlant = e.s.offPlant := by
  simp only [Ev.reduceTo]
  (repeat' split) <;> simp

@[simp] theorem Ev.reduceTo_fixedPart (e : Ev) (u : Inv) (kw : Nat) : (e.reduceTo u kw).s.fixedPart = e.s.fixedPart :=
  State.fixedPart_of_offPlant (by simp)

@[simp] theorem Ev.reduceAll_offPlant (e : Ev) (n : Nat) (us : List Inv) : (e.reduceAll n us).s.offPlant = e.s.offPlant := by
  induction us generalizing e n with
  | nil => rfl
  | cons u us ih =>
    simp only [Ev.reduceAll]
    split
    · rw [ih, Ev.reduceTo_offPlant]
    · rw [ih]

@[simp] theorem Ev.reductionPlan_offPlant (e : Ev) (p : Nat) : (e.reductionPlan p).s.offPlant = e.s.offPlant := by
  simp only [Ev.reductionPlan]
  rw [Ev.reduceAll_offPlant, Ev.forEach_offPlant _ _ (fun _ _ => Ev.release_offPlant _ _ _)]

@[simp] theorem Ev.reductionPlan_fixedPart (e : Ev) (p : Nat) : (e.reductionPlan p).s.fixedPart = e.s.fixedPart :=
  State.fixedPart_of_offPlant (by simp)

@[simp] theorem Ev.takeLimit_offPlant (e : Ev) (l : Nat) : (e.takeLimit l).s.offPlant = e.s.offPlant := by
  simp only [Ev.takeLimit]
  (repeat' split) <;> simp

@[simp] theorem Ev.takeLimit_fixedPart (e : Ev) (l : Nat) : (e.takeLimit l).s.fixedPart = e.s.fixedPart :=
  State.fixedPart_of_offPlant (by simp)

@[simp] theorem Ev.adoptPending_offPlant (e : Ev) (committedBefore : Nat) : (e.adoptPending committedBefore).s.offPlant = e.s.offPlant := by
  simp only [Ev.adoptPending]
  (repeat' split) <;> simp

@[simp] theorem Ev.adoptPending_fixedPart (e : Ev) (committedBefore : Nat) : (e.adoptPending committedBefore).s.fixedPart = e.s.fixedPart :=
  State.fixedPart_of_offPlant (by simp)

@[simp] theorem Ev.emptyQueues_offPlant (e : Ev) : (e.emptyQueues).s.offPlant = e.s.offPlant := by
  simp only [Ev.emptyQueues]
  (repeat' split) <;> simp

@[simp] theorem Ev.emptyQueues_fixedPart (e : Ev) : (e.emptyQueues).s.fixedPart = e.s.fixedPart :=
  State.fixedPart_of_offPlant (by simp)

@[simp] theorem Ev.withdrawSetOutputs_offPlant (e : Ev) : (e.withdrawSetOutputs).s.offPlant = e.s.offPlant := by
  exact Ev.forEach_offPlant _ _ (fun _ _ => Ev.withdrawSetOutput_offPlant _ _) e

@[simp] theorem Ev.withdrawSetOutputs_fixedPart (e : Ev) : (e.withdrawSetOutputs).s.fixedPart = e.s.fixedPart :=
  State.fixedPart_of_offPlant (by simp)

@[simp] theorem Ev.stopHeating_offPlant (e : Ev) : (e.stopHeating).s.offPlant = e.s.offPlant := by
  simp only [Ev.stopHeating]
  rw [Ev.withdrawSetOutputs_offPlant, Ev.forEach_offPlant _ _ (fun _ _ => Ev.release_offPlant _ _ _),
    Ev.emptyQueues_offPlant]

@[simp] theorem Ev.stopHeating_fixedPart (e : Ev) : (e.stopHeating).s.fixedPart = e.s.fixedPart :=
  State.fixedPart_of_offPlant (by simp)

@[simp] theorem Ev.setSlot_offOrders (e : Ev) (n : SlotName) (x : OrderSlot) : (e.setSlot n x).s.offOrders = e.s.offOrders := by
  simp only [Ev.setSlot]
  (repeat' split) <;> simp

@[simp] theorem Ev.setSlot_fixedPart (e : Ev) (n : SlotName) (x : OrderSlot) : (e.setSlot n x).s.fixedPart = e.s.fixedPart :=
  State.fixedPart_of_offOrders (by simp)

@[simp] theorem Ev.cancelSlot_offOrders (e : Ev) (n : SlotName) (tag rank : Nat) (r : CancelReason) : (e.cancelSlot n tag rank r).s.offOrders = e.s.offOrders := by
  simp only [Ev.cancelSlot]
  (repeat' split) <;> simp

@[simp] theorem Ev.cancelSlot_fixedPart (e : Ev) (n : SlotName) (tag rank : Nat) (r : CancelReason) : (e.cancelSlot n tag rank r).s.fixedPart = e.s.fixedPart :=
  State.fixedPart_of_offOrders (by simp)

@[simp] theorem Ev.cancelPending_offOrders (e : Ev) (n : SlotName) : (e.cancelPending n).s.offOrders = e.s.offOrders := by
  simp only [Ev.cancelPending]
  (repeat' split) <;> simp

@[simp] theorem Ev.cancelPending_fixedPart (e : Ev) (n : SlotName) : (e.cancelPending n).s.fixedPart = e.s.fixedPart :=
  State.fixedPart_of_offOrders (by simp)

@[simp] theorem Ev.returnSlot_offOrders (e : Ev) (n : SlotName) : (e.returnSlot n).s.offOrders = e.s.offOrders := by
  simp only [Ev.returnSlot]
  (repeat' split) <;> simp

@[simp] theorem Ev.returnSlot_fixedPart (e : Ev) (n : SlotName) : (e.returnSlot n).s.fixedPart = e.s.fixedPart :=
  State.fixedPart_of_offOrders (by simp)

@[simp] theorem Ev.fillSlot_offOrders (e : Ev) (n : SlotName) (r : OrderResult) : (e.fillSlot n r).s.offOrders = e.s.offOrders := by
  simp only [Ev.fillSlot]
  (repeat' split) <;> simp

@[simp] theorem Ev.fillSlot_fixedPart (e : Ev) (n : SlotName) (r : OrderResult) : (e.fillSlot n r).s.fixedPart = e.s.fixedPart :=
  State.fixedPart_of_offOrders (by simp)

@[simp] theorem Ev.recountSupply_offOrders (e : Ev) : (e.recountSupply).s.offOrders = e.s.offOrders := by
  simp only [Ev.recountSupply]
  (repeat' split) <;> simp

@[simp] theorem Ev.recountSupply_fixedPart (e : Ev) : (e.recountSupply).s.fixedPart = e.s.fixedPart :=
  State.fixedPart_of_offOrders (by simp)

@[simp] theorem Ev.countDeadline_offOrders (e : Ev) (n : SlotName) : (e.countDeadline n).s.offOrders = e.s.offOrders := by
  simp only [Ev.countDeadline]
  (repeat' split) <;> simp

@[simp] theorem Ev.countDeadline_fixedPart (e : Ev) (n : SlotName) : (e.countDeadline n).s.fixedPart = e.s.fixedPart :=
  State.fixedPart_of_offOrders (by simp)

@[simp] theorem Ev.settleOrder_offOrders (e : Ev) (b : Billet) (outcome : ClassOutcome) (temperature : Option Nat) (served : Option Served) (push : Nat) : (e.settleOrder b outcome temperature served push).s.offOrders = e.s.offOrders := by
  simp only [Ev.settleOrder]
  (repeat' split) <;> simp

@[simp] theorem Ev.settleOrder_fixedPart (e : Ev) (b : Billet) (outcome : ClassOutcome) (temperature : Option Nat) (served : Option Served) (push : Nat) : (e.settleOrder b outcome temperature served push).s.fixedPart = e.s.fixedPart :=
  State.fixedPart_of_offOrders (by simp)

@[simp] theorem Ev.feedLearning_offOrders (e : Ev) (b : Billet) (temperature : Option Nat) : (e.feedLearning b temperature).s.offOrders = e.s.offOrders := by
  simp only [Ev.feedLearning]
  (repeat' split) <;> simp

@[simp] theorem Ev.feedLearning_fixedPart (e : Ev) (b : Billet) (temperature : Option Nat) : (e.feedLearning b temperature).s.fixedPart = e.s.fixedPart :=
  State.fixedPart_of_offOrders (by simp)

@[simp] theorem Ev.classify_offOrders (e : Ev) (b : Billet) (outcome : ClassOutcome) (temperature : Option Nat) (served : Option Served) (push : Nat) : (e.classify b outcome temperature served push).s.offOrders = e.s.offOrders := by
  simp only [Ev.classify]
  (repeat' split) <;> simp

@[simp] theorem Ev.classify_fixedPart (e : Ev) (b : Billet) (outcome : ClassOutcome) (temperature : Option Nat) (served : Option Served) (push : Nat) : (e.classify b outcome temperature served push).s.fixedPart = e.s.fixedPart :=
  State.fixedPart_of_offOrders (by simp)

@[simp] theorem Ev.classifyMeasured_offOrders (e : Ev) (m : Measuring) (outcome : ClassOutcome) (temperature : Option Nat) : (e.classifyMeasured m outcome temperature).s.offOrders = e.s.offOrders := by
  simp only [Ev.classifyMeasured]
  (repeat' split) <;> simp

@[simp] theorem Ev.classifyMeasured_fixedPart (e : Ev) (m : Measuring) (outcome : ClassOutcome) (temperature : Option Nat) : (e.classifyMeasured m outcome temperature).s.fixedPart = e.s.fixedPart :=
  State.fixedPart_of_offOrders (by simp)

@[simp] theorem Ev.divertMeasuring_offOrders (e : Ev) : (e.divertMeasuring).s.offOrders = e.s.offOrders := by
  simp only [Ev.divertMeasuring]
  (repeat' split) <;> simp

@[simp] theorem Ev.divertMeasuring_fixedPart (e : Ev) : (e.divertMeasuring).s.fixedPart = e.s.fixedPart :=
  State.fixedPart_of_offOrders (by simp)

@[simp] theorem Ev.discharge_offOrders (e : Ev) (x : Option Slot) (r : PushRecord) : (e.discharge x r).s.offOrders = e.s.offOrders := by
  simp only [Ev.discharge]
  (repeat' split) <;> simp

@[simp] theorem Ev.discharge_fixedPart (e : Ev) (x : Option Slot) (r : PushRecord) : (e.discharge x r).s.fixedPart = e.s.fixedPart :=
  State.fixedPart_of_offOrders (by simp)

end Sys2Proof.Machine
end

