-- ==== Sys2Proof/Laws/Fixed.lean ====
section
/-! SUPPORT. What the operations of the modes, the track, the pushes and the channels leave as it was, and what the end of an event leaves. -/

namespace Sys2Proof.Machine

@[simp] theorem Ev.modTrack_fixedPart (e : Ev) (f : TrackMgr → TrackMgr) (h : ∀ t, (f t).geometry = t.geometry) :
    (e.modTrack f).s.fixedPart = e.s.fixedPart := by
  simp [State.fixedPart, h, State.wires_of_ports (s := (e.modTrack f).s) (t := e.s) rfl]

@[simp] theorem Ev.heatingFollows_fixedPart (e : Ev) (old : Mode) : (e.heatingFollows old).s.fixedPart = e.s.fixedPart := by
  simp only [Ev.heatingFollows]
  (repeat' split) <;> simp

@[simp] theorem Ev.enterMode_fixedPart (e : Ev) (m : Mode) : (e.enterMode m).s.fixedPart = e.s.fixedPart := by
  simp only [Ev.enterMode]
  (repeat' split) <;> simp

@[simp] theorem Ev.enterFaultStop_fixedPart (e : Ev) (c : StopCause) : (e.enterFaultStop c).s.fixedPart = e.s.fixedPart := by
  simp only [Ev.enterFaultStop]
  (repeat' split) <;> simp

@[simp] theorem Ev.requestFaultStop_fixedPart (e : Ev) (c : StopCause) : (e.requestFaultStop c).s.fixedPart = e.s.fixedPart := by
  simp only [Ev.requestFaultStop]
  (repeat' split) <;> simp

@[simp] theorem Ev.changeMode_fixedPart (e : Ev) (m : Mode) : (e.changeMode m).s.fixedPart = e.s.fixedPart := by
  simp only [Ev.changeMode]
  (repeat' split) <;> simp

@[simp] theorem Ev.answerStart_fixedPart (e : Ev) (b : ResponseBody) : (e.answerStart b).s.fixedPart = e.s.fixedPart := by
  refine Ev.modPort_fixedPart e _ _ fun r => ?_
  split <;> rfl

@[simp] theorem Ev.decideStart_fixedPart (e : Ev) : e.decideStart.1.s.fixedPart = e.s.fixedPart := by
  simp only [Ev.decideStart]
  (repeat' split) <;> simp

@[simp] theorem Ev.endStartRound_fixedPart (e : Ev) : (e.endStartRound).s.fixedPart = e.s.fixedPart := by
  simp only [Ev.endStartRound]
  (repeat' split) <;> simp

@[simp] theorem Ev.unitAnswered_fixedPart (e : Ev) (u : Inv) : (e.unitAnswered u).s.fixedPart = e.s.fixedPart := by
  simp only [Ev.unitAnswered]
  (repeat' split) <;> simp

@[simp] theorem Ev.nameForDiscovery_fixedPart (e : Ev) (u : Inv) : (e.nameForDiscovery u).s.fixedPart = e.s.fixedPart := by
  simp only [Ev.nameForDiscovery]
  (repeat' split) <;> simp

@[simp] theorem Ev.beginRound_fixedPart (e : Ev) (us : List Inv) (forStart : Bool) : (e.beginRound us forStart).s.fixedPart = e.s.fixedPart := by
  simp only [Ev.beginRound]
  split
  · rfl
  · rw [Ev.modLink_fixedPart, Ev.forEach_fixedPart _ _ (fun _ _ => Ev.nameForDiscovery_fixedPart _ _)]

theorem State.restarted_fixedPart (s : State) : s.restarted.fixedPart = s.fixedPart := rfl

@[simp] theorem Ev.applyRestart_fixedPart (e : Ev) : e.applyRestart.s.fixedPart = e.s.fixedPart := by
  simp only [Ev.applyRestart, Ev.dueEval_s, Ev.raiseModeChanged_fixedPart]
  change (State.restarted _).fixedPart = _
  rw [State.restarted_fixedPart]
  split <;> simp [State.restarted_fixedPart]

@[simp] theorem Ev.enterTarget_fixedPart (e : Ev) (t : StopTarget) : (e.enterTarget t).s.fixedPart = e.s.fixedPart := by
  unfold Ev.enterTarget
  (repeat' split) <;> simp

@[simp] theorem Ev.byWayOfStopping_fixedPart (e : Ev) (t : StopTarget) : (e.byWayOfStopping t).s.fixedPart = e.s.fixedPart := by
  simp only [Ev.byWayOfStopping]
  (repeat' split) <;> simp

@[simp] theorem Ev.testStopping_fixedPart (e : Ev) (before : State) : (e.testStopping before).s.fixedPart = e.s.fixedPart := by
  simp only [Ev.testStopping]
  (repeat' split) <;> simp

@[simp] theorem Ev.testDrain_fixedPart (e : Ev) : (e.testDrain).s.fixedPart = e.s.fixedPart := by
  simp only [Ev.testDrain]
  (repeat' split) <;> simp

@[simp] theorem Ev.testPurge_fixedPart (e : Ev) : (e.testPurge).s.fixedPart = e.s.fixedPart := by
  simp only [Ev.testPurge]
  (repeat' split) <;> simp

@[simp] theorem Ev.trackSignal_fixedPart (e : Ev) : (e.trackSignal).s.fixedPart = e.s.fixedPart := by
  simp only [Ev.trackSignal]
  (repeat' split) <;> simp

@[simp] theorem Ev.addHold_fixedPart (e : Ev) (c : HoldCause) : (e.addHold c).s.fixedPart = e.s.fixedPart := by
  simp only [Ev.addHold]
  (repeat' split) <;> simp

@[simp] theorem Ev.removeHolds_fixedPart (e : Ev) (cs : List HoldCause) : (e.removeHolds cs).s.fixedPart = e.s.fixedPart := by
  simp only [Ev.removeHolds]
  (repeat' split) <;> simp

@[simp] theorem Ev.putSlots_fixedPart (e : Ev) (slots : List Slot) (touched : List Nat) : (e.putSlots slots touched).s.fixedPart = e.s.fixedPart := by
  simp only [Ev.putSlots]
  (repeat' split) <;> simp

@[simp] theorem Ev.bookUnattributed_fixedPart (e : Ev) (j d : Nat) : (e.bookUnattributed j d).s.fixedPart = e.s.fixedPart := by
  simp only [Ev.bookUnattributed]
  (repeat' split) <;> simp

@[simp] theorem Ev.attribute_fixedPart (e : Ev) (j d : Nat) : (e.attribute j d).s.fixedPart = e.s.fixedPart := by
  simp only [Ev.attribute]
  (repeat' split) <;> simp

@[simp] theorem Ev.markEnergyUnknown_fixedPart (e : Ev) (j : Nat) : (e.markEnergyUnknown j).s.fixedPart = e.s.fixedPart := by
  simp only [Ev.markEnergyUnknown]
  (repeat' split) <;> simp

@[simp] theorem Ev.ageTrack_fixedPart (e : Ev) : (e.ageTrack).s.fixedPart = e.s.fixedPart := by
  simp only [Ev.ageTrack]
  (repeat' split) <;> simp

@[simp] theorem Ev.loseVerification_fixedPart (e : Ev) (kind : PushKind) (cause : StopCause) : (e.loseVerification kind cause).s.fixedPart = e.s.fixedPart := by
  simp only [Ev.loseVerification]
  (repeat' split) <;> simp

@[simp] theorem Ev.orderPush_fixedPart (e : Ev) (kind : PushKind) (origin : Origin) (claim : Option SlotName) : (e.orderPush kind origin claim).s.fixedPart = e.s.fixedPart := by
  simp only [Ev.orderPush]
  (repeat' split) <;> simp

@[simp] theorem Ev.evaluate_fixedPart (e : Ev) : (e.evaluate).s.fixedPart = e.s.fixedPart := by
  simp only [Ev.evaluate]
  (repeat' split) <;> simp

@[simp] theorem Ev.clearPush_fixedPart (e : Ev) : (e.clearPush).s.fixedPart = e.s.fixedPart := by
  simp only [Ev.clearPush]
  (repeat' split) <;> simp

@[simp] theorem Ev.handBack_fixedPart (e : Ev) (r : PushRecord) : (e.handBack r).s.fixedPart = e.s.fixedPart := by
  simp only [Ev.handBack]
  (repeat' split) <;> simp

theorem State.shiftedTrack_geometry (s : State) (k : PushKind) : (s.shiftedTrack k).geometry = s.track.geometry := rfl

@[simp] theorem Ev.pushDone_fixedPart (e : Ev) (r : PushRecord) : (e.pushDone r).s.fixedPart = e.s.fixedPart := by
  simp only [Ev.pushDone, Ev.trackSignal_fixedPart, Ev.discharge_fixedPart, Ev.clearPush_fixedPart,
    Ev.reportAll_fixedPart]
  rfl

@[simp] theorem Ev.pushNotStarted_fixedPart (e : Ev) (r : PushRecord) : (e.pushNotStarted r).s.fixedPart = e.s.fixedPart := by
  simp only [Ev.pushNotStarted]
  (repeat' split) <;> simp

@[simp] theorem Ev.pushLost_fixedPart (e : Ev) (r : PushRecord) (cause : StopCause) : (e.pushLost r cause).s.fixedPart = e.s.fixedPart := by
  simp only [Ev.pushLost]
  (repeat' split) <;> simp

@[simp] theorem Ev.channelOpened_fixedPart (e : Ev) (u : Inv) : (e.channelOpened u).s.fixedPart = e.s.fixedPart := by
  simp only [Ev.channelOpened]
  (repeat' split) <;> simp

@[simp] theorem Ev.channelClosed_fixedPart (e : Ev) (u : Inv) : (e.channelClosed u).s.fixedPart = e.s.fixedPart := by
  simp only [Ev.channelClosed]
  (repeat' split) <;> simp

@[simp] theorem Ev.noteFault_fixedPart (e : Ev) (u : Inv) (c : PendingCause) : (e.noteFault u c).s.fixedPart = e.s.fixedPart := by
  simp only [Ev.noteFault]
  (repeat' split) <;> simp

@[simp] theorem Ev.stopAtReject_fixedPart (e : Ev) (u : Inv) : (e.stopAtReject u).s.fixedPart = e.s.fixedPart := by
  simp [Ev.stopAtReject]

@[simp] theorem Ev.inverterStopped_fixedPart (e : Ev) (u : Inv) : (e.inverterStopped u).s.fixedPart = e.s.fixedPart := by
  simp only [Ev.inverterStopped]
  (repeat' split) <;> simp

@[simp] theorem Ev.emergencyOpen_fixedPart (e : Ev) (u : Inv) : (e.emergencyOpen u).s.fixedPart = e.s.fixedPart := by
  simp only [Ev.emergencyOpen]
  (repeat' split) <;> simp

@[simp] theorem Ev.loseUnconnected_fixedPart (e : Ev) (u : Inv) : (e.loseUnconnected u).s.fixedPart = e.s.fixedPart := by
  simp only [Ev.loseUnconnected]
  (repeat' split) <;> simp

@[simp] theorem Ev.clearServes_fixedPart (e : Ev) (u : Inv) : (e.clearServes u).s.fixedPart = e.s.fixedPart := by
  simp only [Ev.clearServes]
  (repeat' split) <;> simp

@[simp] theorem Ev.abandonClear_fixedPart (e : Ev) (u : Inv) : (e.abandonClear u).s.fixedPart = e.s.fixedPart := by
  simp only [Ev.abandonClear]
  (repeat' split) <;> simp

@[simp] theorem Ev.loseWaitingClear_fixedPart (e : Ev) (u : Inv) : (e.loseWaitingClear u).s.fixedPart = e.s.fixedPart := by
  simp only [Ev.loseWaitingClear]
  (repeat' split) <;> simp

@[simp] theorem Ev.lose_fixedPart (e : Ev) (u : Inv) (p : Purpose) : (e.lose u p).s.fixedPart = e.s.fixedPart := by
  simp only [Ev.lose]
  (repeat' split) <;> simp

@[simp] theorem Ev.takeReport_fixedPart (e : Ev) (u : Inv) (r : StateReport) : (e.takeReport u r).s.fixedPart = e.s.fixedPart := by
  simp only [Ev.takeReport]
  (repeat' split) <;> simp

@[simp] theorem Ev.takeOutput_fixedPart (e : Ev) (u : Inv) (was : ChannelState) (o : OutputState) : (e.takeOutput u was o).s.fixedPart = e.s.fixedPart := by
  simp only [Ev.takeOutput]
  (repeat' split) <;> simp

@[simp] theorem Ev.takeStateReply_fixedPart (e : Ev) (u : Inv) (r : StateReport) : (e.takeStateReply u r).s.fixedPart = e.s.fixedPart := by
  simp only [Ev.takeStateReply]
  (repeat' split) <;> simp

@[simp] theorem Ev.decideByReply_fixedPart (e : Ev) (u : Inv) (r : StateReport) : (e.decideByReply u r).s.fixedPart = e.s.fixedPart := by
  simp only [Ev.decideByReply]
  (repeat' split) <;> simp

@[simp] theorem Ev.endClear_fixedPart (e : Ev) (u : Inv) (r : StateReport) : (e.endClear u r).s.fixedPart = e.s.fixedPart := by
  simp only [Ev.endClear]
  (repeat' split) <;> simp

@[simp] theorem Ev.failClear_fixedPart (e : Ev) (u : Inv) : (e.failClear u).s.fixedPart = e.s.fixedPart := by
  simp only [Ev.failClear]
  (repeat' split) <;> simp

@[simp] theorem Ev.discovered_fixedPart (e : Ev) (u : Inv) (r : StateReport) : (e.discovered u r).s.fixedPart = e.s.fixedPart := by
  simp only [Ev.discovered]
  (repeat' split) <;> simp

@[simp] theorem Ev.undiscovered_fixedPart (e : Ev) (u : Inv) : (e.undiscovered u).s.fixedPart = e.s.fixedPart := by
  simp only [Ev.undiscovered]
  (repeat' split) <;> simp

@[simp] theorem Ev.queueWantedDiscovery_fixedPart (e : Ev) (u : Inv) : (e.queueWantedDiscovery u).s.fixedPart = e.s.fixedPart := by
  simp only [Ev.queueWantedDiscovery]
  (repeat' split) <;> simp

@[simp] theorem Ev.startSlice_fixedPart (e : Ev) (u : Inv) : (e.startSlice u).s.fixedPart = e.s.fixedPart := by
  simp only [Ev.startSlice]
  (repeat' split) <;> simp

@[simp] theorem Ev.setpointAccepted_fixedPart (e : Ev) (u : Inv) (kw : Nat) : (e.setpointAccepted u kw).s.fixedPart = e.s.fixedPart := by
  simp only [Ev.setpointAccepted]
  (repeat' split) <;> simp

@[simp] theorem Ev.setpointBusy_fixedPart (e : Ev) (u : Inv) (kw : Nat) : (e.setpointBusy u kw).s.fixedPart = e.s.fixedPart := by
  simp only [Ev.setpointBusy]
  (repeat' split) <;> simp

@[simp] theorem Ev.setpointRefused_fixedPart (e : Ev) (u : Inv) : (e.setpointRefused u).s.fixedPart = e.s.fixedPart := by
  simp only [Ev.setpointRefused]
  (repeat' split) <;> simp

@[simp] theorem Ev.setpointTimeout_fixedPart (e : Ev) (u : Inv) (kw : Nat) (lost : Bool) : (e.setpointTimeout u kw lost).s.fixedPart = e.s.fixedPart := by
  simp only [Ev.setpointTimeout]
  (repeat' split) <;> simp

@[simp] theorem Ev.stopOutcome_fixedPart (e : Ev) (u : Inv) (o : LinkOutcome) (lost : Bool) : (e.stopOutcome u o lost).s.fixedPart = e.s.fixedPart := by
  simp only [Ev.stopOutcome]
  (repeat' split) <;> simp

@[simp] theorem Ev.clearOutcome_fixedPart (e : Ev) (u : Inv) (o : LinkOutcome) : (e.clearOutcome u o).s.fixedPart = e.s.fixedPart := by
  simp only [Ev.clearOutcome]
  (repeat' split) <;> simp

@[simp] theorem Ev.startStopOutcome_fixedPart (e : Ev) (u : Inv) (o : LinkOutcome) : (e.startStopOutcome u o).s.fixedPart = e.s.fixedPart := by
  simp only [Ev.startStopOutcome]
  (repeat' split) <;> simp

@[simp] theorem Ev.takeOutcome_fixedPart (e : Ev) (x : LinkEntry) (o : LinkOutcome) (lost : Bool) : (e.takeOutcome x o lost).s.fixedPart = e.s.fixedPart := by
  simp only [Ev.takeOutcome]
  (repeat' split) <;> simp

@[simp] theorem Ev.handOver_fixedPart (e : Ev) (x : LinkEntry) (o : LinkOutcome) : (e.handOver x o).s.fixedPart = e.s.fixedPart := by
  simp only [Ev.handOver]
  (repeat' split) <;> simp

@[simp] theorem Ev.endTransaction_fixedPart (e : Ev) (t : Transaction) (o : LinkOutcome) : (e.endTransaction t o).s.fixedPart = e.s.fixedPart := by
  simp only [Ev.endTransaction]
  (repeat' split) <;> simp

@[simp] theorem Ev.replyTimedOut_fixedPart (e : Ev) : (e.replyTimedOut).s.fixedPart = e.s.fixedPart := by
  simp only [Ev.replyTimedOut]
  (repeat' split) <;> simp

@[simp] theorem Ev.frameReceived_fixedPart (e : Ev) (unit : Nat) (content : Option LinkOutcome) : (e.frameReceived unit content).s.fixedPart = e.s.fixedPart := by
  simp only [Ev.frameReceived]
  (repeat' split) <;> simp

@[simp] theorem Ev.lockChannel_fixedPart (e : Ev) (u : Inv) (f : LockedFrom) : (e.lockChannel u f).s.fixedPart = e.s.fixedPart := by
  simp only [Ev.lockChannel]
  (repeat' split) <;> simp

@[simp] theorem Ev.weldedElsewhere_fixedPart (e : Ev) (u : Inv) : (e.weldedElsewhere u).s.fixedPart = e.s.fixedPart := by
  simp only [Ev.weldedElsewhere]
  (repeat' split) <;> simp

@[simp] theorem Ev.weldedChannel_fixedPart (e : Ev) (u : Inv) (j : Nat) : (e.weldedChannel u j).s.fixedPart = e.s.fixedPart := by
  simp only [Ev.weldedChannel]
  (repeat' split) <;> simp

@[simp] theorem Ev.becomeFailClosed_fixedPart (e : Ev) (u : Inv) (j : Nat) : (e.becomeFailClosed u j).s.fixedPart = e.s.fixedPart := by
  simp only [Ev.becomeFailClosed]
  (repeat' split) <;> simp

@[simp] theorem Ev.crosspointClosed_fixedPart (e : Ev) (u : Inv) (j : Nat) : (e.crosspointClosed u j).s.fixedPart = e.s.fixedPart := by
  simp only [Ev.crosspointClosed]
  (repeat' split) <;> simp

@[simp] theorem Ev.crosspointOpened_fixedPart (e : Ev) (u : Inv) (x : Crosspoint) : (e.crosspointOpened u x).s.fixedPart = e.s.fixedPart := by
  simp only [Ev.crosspointOpened]
  (repeat' split) <;> simp

@[simp] theorem Ev.closeFailed_fixedPart (e : Ev) (u : Inv) (j : Nat) : (e.closeFailed u j).s.fixedPart = e.s.fixedPart := by
  simp only [Ev.closeFailed]
  (repeat' split) <;> simp

@[simp] theorem Ev.contactorDropped_fixedPart (e : Ev) (u : Inv) (j : Nat) : (e.contactorDropped u j).s.fixedPart = e.s.fixedPart := by
  simp only [Ev.contactorDropped]
  (repeat' split) <;> simp

@[simp] theorem Ev.feedbackTimedOut_fixedPart (e : Ev) (u : Inv) (j : Nat) : (e.feedbackTimedOut u j).s.fixedPart = e.s.fixedPart := by
  simp only [Ev.feedbackTimedOut]
  (repeat' split) <;> simp

@[simp] theorem Ev.judgeNew_fixedPart (e : Ev) (u : Inv) (j : Nat) : (e.judgeNew u j).s.fixedPart = e.s.fixedPart := by
  simp only [Ev.judgeNew]
  (repeat' split) <;> simp

@[simp] theorem Ev.releaseLockouts_fixedPart (e : Ev) (u : Inv) (j : Nat) : (e.releaseLockouts u j).s.fixedPart = e.s.fixedPart := by
  simp only [Ev.releaseLockouts]
  (repeat' split) <;> simp

@[simp] theorem Ev.releaseCrosspoint_fixedPart (e : Ev) (u : Inv) (j : Nat) : (e.releaseCrosspoint u j).s.fixedPart = e.s.fixedPart := by
  simp only [Ev.releaseCrosspoint]
  (repeat' split) <;> simp

@[simp] theorem Ev.bytesReceived_fixedPart (e : Ev) (frame : List Byte) : (e.bytesReceived frame).s.fixedPart = e.s.fixedPart := by
  simp only [Ev.bytesReceived]
  (repeat' split) <;> simp

@[simp] theorem Ev.lineSecond_fixedPart (e : Ev) : (e.lineSecond).s.fixedPart = e.s.fixedPart := by
  simp only [Ev.lineSecond]
  (repeat' split) <;> simp

@[simp] theorem Ev.sliceExpired_fixedPart (e : Ev) (u : Inv) (j : Nat) : (e.sliceExpired u j).s.fixedPart = e.s.fixedPart := by
  simp only [Ev.sliceExpired]
  (repeat' split) <;> simp

@[simp] theorem Ev.pressSilent_fixedPart (e : Ev) : (e.pressSilent).s.fixedPart = e.s.fixedPart := by
  simp only [Ev.pressSilent]
  (repeat' split) <;> simp

@[simp] theorem Ev.holdLimitReached_fixedPart (e : Ev) : (e.holdLimitReached).s.fixedPart = e.s.fixedPart := by
  simp only [Ev.holdLimitReached]
  (repeat' split) <;> simp

@[simp] theorem Ev.readingTaken_fixedPart (e : Ev) (status : PyroStatus) (t : Nat) : (e.readingTaken status t).s.fixedPart = e.s.fixedPart := by
  simp only [Ev.readingTaken]
  (repeat' split) <;> simp

@[simp] theorem Ev.pollPeriodEnds_fixedPart (e : Ev) : (e.pollPeriodEnds).s.fixedPart = e.s.fixedPart := by
  simp only [Ev.pollPeriodEnds]
  (repeat' split) <;> simp

@[simp] theorem Ev.retryFallsDue_fixedPart (e : Ev) (u : Inv) : (e.retryFallsDue u).s.fixedPart = e.s.fixedPart := by
  simp only [Ev.retryFallsDue]
  (repeat' split) <;> simp

@[simp] theorem Ev.transactionEnds_fixedPart (e : Ev) (o : LinkOutcome) : (e.transactionEnds o).s.fixedPart = e.s.fixedPart := by
  simp only [Ev.transactionEnds]
  (repeat' split) <;> simp

@[simp] theorem Ev.stopUnconfirmed_fixedPart (e : Ev) (u : Inv) : (e.stopUnconfirmed u).s.fixedPart = e.s.fixedPart := by
  simp only [Ev.stopUnconfirmed]
  (repeat' split) <;> simp

@[simp] theorem Ev.holdbackEnds_fixedPart (e : Ev) (u : Inv) : (e.holdbackEnds u).s.fixedPart = e.s.fixedPart := by
  simp only [Ev.holdbackEnds]
  (repeat' split) <;> simp

@[simp] theorem Ev.lineHears_fixedPart (e : Ev) (r : List Byte) : (e.lineHears r).s.fixedPart = e.s.fixedPart := by
  simp only [Ev.lineHears]
  (repeat' split) <;> simp

@[simp] theorem Ev.sendFrame_fixedPart (e : Ev) (x : LinkEntry) (r : List Byte) :
    (e.sendFrame x r).s.fixedPart = e.s.fixedPart := by
  simp [Ev.sendFrame]

@[simp] theorem Ev.sendHead_fixedPart (e : Ev) (x : LinkEntry) (r : List Byte) :
    (e.sendHead x r).s.fixedPart = e.s.fixedPart := by
  simp only [Ev.sendHead]
  (repeat' split) <;> simp

@[simp] theorem Ev.sendPoll_fixedPart (e : Ev) (u : Inv) (r : List Byte) :
    (e.sendPoll u r).s.fixedPart = e.s.fixedPart := by
  simp [Ev.sendPoll]

@[simp] theorem Ev.sendNext_fixedPart (e : Ev) (r : List Byte) : (e.sendNext r).s.fixedPart = e.s.fixedPart := by
  simp only [Ev.sendNext]
  (repeat' split) <;> simp

/-! ### The end of an event -/

theorem Ev.finish_fixedPart (e : Ev) (before : State) : (e.finish before).fixedPart = e.s.fixedPart := by
  simp only [Ev.finish]
  (repeat' split) <;> simp

theorem State.event_fixedPart (s : State) (f : Ev → Ev) (h : ∀ e, (f e).s.fixedPart = e.s.fixedPart) :
    (s.event f).fixedPart = s.fixedPart := by
  simp [State.event, Ev.finish_fixedPart, h]

end Sys2Proof.Machine
end

