-- ==== Sys2Proof/Laws/Finish.lean ====
section
/-! SUPPORT. What the end of an event can do, and what a request transaction can do: the lemmas the proofs about commands cite. -/

namespace Sys2Proof.Machine

/-- Every block but the push controller, the order manager and the ports. -/
def State.offEval (s : State) :=
  (s.pending, s.line, s.lines, s.track, s.recipes, s.alloc, s.channels, s.matrix, s.link, s.settings, s.loader, s.free)

/-! ## The push evaluation -/

theorem Ev.evaluate_offEval (e : Ev) : e.evaluate.s.offEval = e.s.offEval := by
  simp only [Ev.evaluate]
  split
  · rfl
  · split <;> rfl
  · rename_i kind origin claim _
    cases claim <;> rfl

theorem Ev.evaluate_ports_ne (e : Ev) {p : Port} (h : p ≠ .feeder) : e.evaluate.s.ports.get p = e.s.ports.get p := by
  simp only [Ev.evaluate]
  cases p
  · split
    · rfl
    · split <;> rfl
    · rename_i kind origin claim _
      cases claim <;> rfl
  · exact absurd rfl h
  · split
    · rfl
    · split <;> rfl
    · rename_i kind origin claim _
      cases claim <;> rfl

/-- The feeder port after an evaluation: flags may be set, and nothing else of it changes. -/
theorem Ev.evaluate_feeder (e : Ev) :
    ∃ f : EventSet, e.evaluate.s.ports.feeder = { e.s.ports.feeder with flags := f } ∧
      ∀ k, e.s.ports.feeder.flags.has k = true → f.has k = true := by
  simp only [Ev.evaluate]
  split
  · exact ⟨_, rfl, fun _ h => h⟩
  · split
    · exact ⟨_, rfl, fun _ h => h⟩
    · exact ⟨_, rfl, fun k h => by cases k <;> first | rfl | exact h⟩
  · rename_i kind origin claim _
    cases claim <;> exact ⟨_, rfl, fun k h => by cases k <;> first | rfl | exact h⟩

/-- An evaluation that finds no push wanted clears the cradle wait mark and does nothing else (R127). -/
theorem Ev.evaluate_nothing (e : Ev) (h : e.s.wantedPush = .nothing) :
    e.evaluate = e.modPush fun p => { p with cradleWait := false } := by
  simp [Ev.evaluate, h]

theorem State.wantedPush_of_record (s : State) (h : s.push.record.isSome = true) : s.wantedPush = .nothing := by
  simp [State.wantedPush, h]

theorem State.wantedPush_of_unverified (s : State) (h : s.track.verified = false) : s.wantedPush = .nothing := by
  simp [State.wantedPush, h]

/-! ## The ports under the allocation pass -/

@[simp] theorem Ev.modAlloc_ports_eq (e : Ev) (f : Allocator → Allocator) : (e.modAlloc f).s.ports = e.s.ports := rfl

theorem Ev.enterState_closing_ports (e : Ev) (u : Inv) : (e.enterState u .closing).s.ports = e.s.ports := by
  simp [Ev.enterState, ChannelState.pollable, ChannelState.alarms, ChannelState.isFaulted, ChannelState.isLocked]

theorem Ev.grant_ports (e : Ev) (u : Inv) (j : Nat) : (e.grant u j).s.ports = e.s.ports := by
  simp only [Ev.grant, Ev.enterState_closing_ports]
  rfl

theorem Ev.offer_ports (e : Ev) (u : Inv) : (e.offer u).s.ports = e.s.ports := by
  simp only [Ev.offer]
  split
  · split
    · exact Ev.grant_ports _ _ _
    · rfl
  · rfl

theorem Ev.allocationPass_ports (e : Ev) : e.allocationPass.s.ports = e.s.ports := by
  simp only [Ev.allocationPass]
  split
  · exact Ev.forEach_view State.ports _ _ (fun u e => Ev.offer_ports e u) e
  · rfl

theorem Ev.adoptPending_ports (e : Ev) (c : Nat) : (e.adoptPending c).s.ports = e.s.ports := by
  simp only [Ev.adoptPending]
  (repeat' split) <;> rfl

@[simp] theorem Ev.adoptPending_evalDue (e : Ev) (c : Nat) : (e.adoptPending c).evalDue = e.evalDue := by
  simp only [Ev.adoptPending]
  (repeat' split) <;> rfl

/-! ## STOPPING and the pending limit at the end of an event -/

theorem Ev.testStopping_of_mode (e : Ev) (before : State) (h : ∀ t, e.s.line.mode ≠ .stopping t) :
    e.testStopping before = e := by
  unfold Ev.testStopping
  split
  · rename_i t ht
    exact absurd ht (h t)
  · rfl

/-- STOPPING does not end at an event in which no channel left the working states (R169). -/
theorem Ev.testStopping_of_working (e : Ev) (before : State)
    (h : ∀ u, (before.channel u).state.working = true → (e.s.channel u).state.working = true) :
    e.testStopping before = e := by
  simp only [Ev.testStopping]
  split
  · rename_i t _
    have hn : (inverters.any fun u =>
        (before.channel u).state.working && !(e.s.channel u).state.working) = false := by
      simp only [List.any_eq_false, Bool.and_eq_true, Bool.not_eq_true', not_and, Bool.not_eq_false]
      intro u _
      exact h u
    simp [hn]
  · rfl

theorem Ev.testStopping_of_channels (e : Ev) (before : State) (h : e.s.channels = before.channels) :
    e.testStopping before = e := by
  apply Ev.testStopping_of_working
  intro u hu
  simpa [State.channel, h] using hu

theorem State.committed_of_channels {s t : State} (h : s.channels = t.channels) : s.committed = t.committed := by
  simp [State.committed, h]

theorem Ev.adoptPending_of_not_lt (e : Ev) (c : Nat) (h : ¬ e.s.committed < c) : e.adoptPending c = e := by
  simp only [Ev.adoptPending]
  split
  · simp [h]
  · rfl

theorem headroomGrew_of_channels {s t : State} (hc : t.channels = s.channels) (hl : t.alloc.effective = s.alloc.effective) :
    headroomGrew s t = false := by
  simp [headroomGrew, State.channel, hc, hl, inverters]

/-- The end of an event with nothing due that left the channels and the effective limit as they were: nothing more. -/
theorem Ev.finish_quiet (e : Ev) (before : State) (hp : e.passDue = false) (hv : e.evalDue = false)
    (hc : e.s.channels = before.channels) (hl : e.s.alloc.effective = before.alloc.effective) :
    e.finish before = e.s := by
  have h1 := Ev.testStopping_of_channels e before hc
  have h2 : e.adoptPending before.committed = e :=
    Ev.adoptPending_of_not_lt e _ (by rw [State.committed_of_channels hc]; omega)
  simp only [Ev.finish, h2, h1, hp, hv, headroomGrew_of_channels hc hl, Bool.or_self, Bool.false_eq_true, if_false]

/-- The same with an evaluation due: one push evaluation. -/
theorem Ev.finish_evaluate (e : Ev) (before : State) (hp : e.passDue = false) (hv : e.evalDue = true)
    (hc : e.s.channels = before.channels) (hl : e.s.alloc.effective = before.alloc.effective) :
    e.finish before = e.evaluate.s := by
  have h1 := Ev.testStopping_of_channels e before hc
  have h2 : e.adoptPending before.committed = e :=
    Ev.adoptPending_of_not_lt e _ (by rw [State.committed_of_channels hc]; omega)
  simp only [Ev.finish, h2, h1, hp, hv, headroomGrew_of_channels hc hl, Bool.or_self, Bool.false_eq_true, if_false,
    if_true]

theorem State.event_quiet (s : State) (f : Ev → Ev) (hp : (f (Ev.of s)).passDue = false)
    (hv : (f (Ev.of s)).evalDue = false) (hc : (f (Ev.of s)).s.channels = s.channels)
    (hl : (f (Ev.of s)).s.alloc.effective = s.alloc.effective) : s.event f = (f (Ev.of s)).s :=
  Ev.finish_quiet _ _ hp hv hc hl

/-- The pending limit takes effect once committed power has fallen to it (R71). -/
theorem Ev.adoptPending_adopts (e : Ev) {p c : Nat} (h : e.s.alloc.pendingLimit = some p) (hc : e.s.committed < c)
    (hp : e.s.committed ≤ p) :
    (e.adoptPending c).s = { e.s with alloc := { e.s.alloc with effective := p, pendingLimit := none } } := by
  simp only [Ev.adoptPending, h, hc, hp, and_self, if_true]
  split <;> rfl

@[simp] theorem Ev.adoptPending_channels (e : Ev) (c : Nat) : (e.adoptPending c).s.channels = e.s.channels := by
  simp only [Ev.adoptPending]
  (repeat' split) <;> rfl

@[simp] theorem Ev.adoptPending_line (e : Ev) (c : Nat) : (e.adoptPending c).s.line = e.s.line := by
  simp only [Ev.adoptPending]
  (repeat' split) <;> rfl

/-- STOPPING does not end in an event that leaves the line in another mode, or in which no channel left the working states:
the pending limit, taken before it, changes neither (R71, R169). -/
theorem Ev.testStopping_adopted (e : Ev) (before : State) (c : Nat)
    (h : (∀ t, e.s.line.mode ≠ .stopping t) ∨
      ∀ u, (before.channel u).state.working = true → (e.s.channel u).state.working = true) :
    (e.adoptPending c).testStopping before = e.adoptPending c := by
  rcases h with h | h
  · exact Ev.testStopping_of_mode _ _ (by simpa using h)
  · exact Ev.testStopping_of_working _ _ (by simpa [State.channel] using h)

/-- What the end of an event leaves of the line, the track, the recipes, the lines and the ports when STOPPING does not end
in it. -/
theorem Ev.finish_keeps (e : Ev) (before : State)
    (hs : (∀ t, e.s.line.mode ≠ .stopping t) ∨
      ∀ u, (before.channel u).state.working = true → (e.s.channel u).state.working = true) :
    (e.finish before).line = e.s.line ∧ (e.finish before).lines = e.s.lines ∧
    (e.finish before).track = e.s.track ∧ (e.finish before).recipes = e.s.recipes ∧
    (∀ p, p ≠ .feeder → (e.finish before).ports.get p = e.s.ports.get p) ∧
    ∃ f : EventSet, (e.finish before).ports.feeder = { e.s.ports.feeder with flags := f } ∧
      ∀ k, e.s.ports.feeder.flags.has k = true → f.has k = true := by
  have h := Ev.testStopping_adopted e before before.committed hs
  simp only [Ev.finish, h]
  have a2 : (e.adoptPending before.committed).s.offPlant = e.s.offPlant := Ev.adoptPending_offPlant _ _
  have p2 : (e.adoptPending before.committed).s.ports = e.s.ports := Ev.adoptPending_ports _ _
  generalize e.adoptPending before.committed = e2 at a2 p2 ⊢
  have a3 : (if (e2.passDue || headroomGrew before e2.s) = true then e2.allocationPass else e2).s.offPlant =
      e.s.offPlant := by
    split
    · rw [Ev.allocationPass_offPlant, a2]
    · exact a2
  have p3 : (if (e2.passDue || headroomGrew before e2.s) = true then e2.allocationPass else e2).s.ports = e.s.ports := by
    split
    · rw [Ev.allocationPass_ports, p2]
    · exact p2
  generalize (if (e2.passDue || headroomGrew before e2.s) = true then e2.allocationPass else e2) = e3 at a3 p3 ⊢
  simp only [State.offPlant, Prod.mk.injEq] at a3
  split
  · have hv := Ev.evaluate_offEval e3
    simp only [State.offEval, Prod.mk.injEq] at hv
    refine ⟨by rw [hv.2.1, a3.2.1], by rw [hv.2.2.1, a3.2.2.1], by rw [hv.2.2.2.1, a3.2.2.2.1],
      by rw [hv.2.2.2.2.1, a3.2.2.2.2.1], ?_, ?_⟩
    · intro p hp
      rw [Ev.evaluate_ports_ne _ hp, p3]
    · have := Ev.evaluate_feeder e3
      rwa [p3] at this
  · exact ⟨a3.2.1, a3.2.2.1, a3.2.2.2.1, a3.2.2.2.2.1, fun p _ => by rw [p3], _, by rw [p3], fun _ h => h⟩

/-! ## A request transaction (R185, R188 to R190) -/

theorem State.ended_ignored (s : State) (p : Port) (f : State → State) (h : (s.ports.get p).select = .ignored) :
    s.ended p f = s.deselect p := by
  simp [State.ended, h]

theorem State.ended_heeded (s : State) (p : Port) (f : State → State) (h : (s.ports.get p).select ≠ .ignored) :
    s.ended p f = f s := by
  simp [State.ended, h]

theorem State.request_ignored (s : State) (p : Port) (code : Byte) (take : State → Taken)
    (h : (s.ports.get p).select = .ignored) : s.request p code take = s.deselect p :=
  State.ended_ignored s p _ h

theorem State.request_busy (s : State) (p : Port) (code : Byte) (take : State → Taken)
    (hc : (s.ports.get p).select ≠ .ignored) (h : (s.ports.get p).state ≠ .idle) :
    s.request p code take = ((s.shiftOut p none).pressHeard p).modPort p fun x => { x with overrun := true } := by
  simp [State.request, State.ended_heeded s p _ hc, h]

theorem State.request_notPermitted (s : State) (p : Port) (code : Byte) (take : State → Taken)
    (hc : (s.ports.get p).select ≠ .ignored) (h : (s.ports.get p).state = .idle) (hp : permitted p code.toNat = false) :
    s.request p code take = ((s.shiftOut p none).pressHeard p).hold p code (.refused .notPermitted) := by
  simp [State.request, State.ended_heeded s p _ hc, h, hp]

theorem State.request_taken (s : State) (p : Port) (code : Byte) (take : State → Taken)
    (hc : (s.ports.get p).select ≠ .ignored) (h : (s.ports.get p).state = .idle) (hp : permitted p code.toNat = true) :
    s.request p code take = ((s.shiftOut p none).pressHeard p).takeRequest p code take := by
  simp [State.request, State.ended_heeded s p _ hc, h, hp]

end Sys2Proof.Machine
end

