-- ==== Sys2Proof/Laws/Allocation.lean ====
section
/-! SUPPORT. The allocator's operations in the words of the statements: an allocation pass is `afterPass`, the joining test is `joinedIf`. -/

namespace Sys2Proof.Machine

open Sys2Proof.Stated

/-! ## Quantities -/

theorem Channel.counted_eq (c : Channel) : c.counted = countedFor c := rfl

theorem State.committed_eq (s : State) : s.committed = (inverters.map fun u => countedFor (s.channels.get u)).sum := by
  simp only [State.committed, Channel.counted_eq, inverters, List.map_cons, List.map_nil, List.sum_cons, List.sum_nil,
    PerInv.get]
  omega

theorem State.headroom_eq (s : State) : s.headroom = headroomOf s := by
  simp only [State.headroom, State.committed_eq, headroomOf]

theorem minimumSetpoint_eq (kw : Nat) : minimumSetpoint kw = fivePercent kw := by
  simp only [minimumSetpoint, fivePercent]
  omega

theorem State.usable_eq (s : State) (u : Inv) (j : Nat) : s.usable u j = usableAt s j u := by
  simp only [State.usable, usableAt]
  cases s.crosspoint u j with
  | none => rfl
  | some x => cases hx : x.state <;> simp [hx, CrosspointState.failed]

theorem State.reachable_eq (s : State) (j : Nat) : s.reachable j = inverters.any (usableAt s j) := by
  simp only [State.reachable, State.usable_eq]

theorem State.classOfLead_eq (s : State) (l : Lead) : s.classOfLead l = classUnder s.settings.urgency s.positions l := by
  simp only [State.classOfLead, classUnder, bandOf]
  (repeat' split) <;> first | rfl | simp_all

/-! ## Joining (R56) -/

/-- What the joining test does: the coil joins the tail of its class's queue, and a pass is due, when `joinsAs` gives a
class; nothing otherwise. -/
theorem Ev.joinTest_eq (e : Ev) (j : Nat) :
    e.joinTest j = { e with s := joinedIf e.s j, passDue := e.passDue || (joinsAs e.s j).isSome } := by
  simp only [Ev.joinTest, joinedIf, joinsAs, State.classOf]
  cases hc : e.s.coil j with
  | none => simp
  | some c =>
    obtain ⟨st, dis, dem, lead⟩ := c
    cases lead with
    | none => cases st <;> simp
    | some l =>
      cases st <;> simp [State.reachable_eq, State.classOfLead_eq]
      by_cases h : e.s.line.mode.heating = true ∧ e.s.settings.limits.threshold ≤ dem ∧
          inverters.any (usableAt e.s j) = true
      · have h3 := h.2.2
        simp only [List.any_eq_true] at h3
        simp [h.1, h.2.1, h3, Ev.duePass, Ev.modAlloc, Ev.setCoilState, Ev.modCoil, recoiled]
        rfl
      · have h3 : ¬ (e.s.line.mode.heating = true ∧ e.s.settings.limits.threshold ≤ dem ∧
            ∃ u ∈ inverters, usableAt e.s j u = true) := by simpa using h
        simp only [if_neg h3, Option.isSome_none, Bool.or_false]
        exact if_neg fun hh => h3 ⟨hh.1.1, hh.1.2, hh.2⟩

theorem Ev.joinTest_s (e : Ev) (j : Nat) : (e.joinTest j).s = joinedIf e.s j := by rw [Ev.joinTest_eq]

theorem Ev.joinTests_s (js : List Nat) (e : Ev) : (e.forEach js fun j e => e.joinTest j).s = js.foldl joinedIf e.s := by
  induction js generalizing e with
  | nil => rfl
  | cons j js ih =>
    have := ih (e.joinTest j)
    rw [Ev.joinTest_s] at this
    exact this

/-- The joining test of every coil (R56). -/
theorem Ev.joinAll_s (e : Ev) : e.joinAll.s = joinedAll e.s := Ev.joinTests_s _ e

/-! ## Reports (R28, R56 to R58) -/

/-- What a report does, unless it ends the grant of an assigned coil. -/
theorem Ev.actOnReport_s (e : Ev) (j : Nat)
    (h : ∀ c u, e.s.coil j = some c → c.state = .assigned u → c.demand ≠ 0) : (e.actOnReport j).s = actedOn e.s j := by
  simp only [Ev.actOnReport, actedOn]
  cases hc : e.s.coil j with
  | none => rfl
  | some c =>
    obtain ⟨st, dis, dem, lead⟩ := c
    cases st with
    | unpowered => exact Ev.joinTest_s e j
    | disabled => rfl
    | locked => rfl
    | assigned u =>
      have := h _ u hc rfl
      simp_all
    | queued k =>
      by_cases hd : dem = 0
      · simp [hd]
        rfl
      · cases lead with
        | none => simp [hd, State.classOf, hc]
        | some l =>
          simp only [State.classOf, hc, Option.bind_some, Option.map_some, State.classOfLead_eq, hd, if_false]
          split <;> rfl

/-! ## The allocation pass (R59 to R61) -/

theorem State.coilFor_eq (s : State) (u : Inv) : s.coilFor u = pickedFor s u := by
  simp only [State.coilFor, pickedFor, Queues.inOrder, State.usable_eq, State.columnDriveClosed]

theorem Ev.grant_eq (e : Ev) (u : Inv) (j : Nat) : e.grant u j = { e with s := granted e.s u j } := by
  simp only [Ev.grant, State.grantSetpointFor, State.headroom_eq]
  simp [Ev.enterState, ChannelState.pollable, ChannelState.alarms, ChannelState.isFaulted, ChannelState.isLocked,
    Ev.closeDrive, Ev.modCrosspoint, Ev.modMatrix, Ev.modChannel, Ev.modAlloc, Ev.modLink, Ev.leaveQueue, Ev.setCoilState,
    Ev.modCoil, granted, recoiled, leaving, Queues.remove, nextFrom1, top32]
  cases u <;> rfl

theorem Ev.offer_eq (e : Ev) (u : Inv) : e.offer u = { e with s := offered e.s u } := by
  simp only [Ev.offer, offered, State.coilFor_eq, minimumSetpoint_eq, State.headroom_eq, State.channel]
  split
  · split <;> simp [Ev.grant_eq, *]
  · rfl

/-- An allocation pass, in the words of the statements (R59). -/
theorem Ev.allocationPass_eq (e : Ev) : e.allocationPass = { e with s := afterPass e.s } := by
  simp only [Ev.allocationPass, afterPass, State.passAllowed, Ev.forEach, inverters, List.foldl_cons, List.foldl_nil,
    Ev.offer_eq, Bool.and_eq_true, Option.isNone_iff_eq_none, and_assoc]
  split <;> rfl

/-! ## Joins and passes look at no port and no order slot -/

section
variable (s : State) (ports : PerPort PortRec) (orders : OrderMgr)

theorem joinedIf_of_ports (j : Nat) :
    joinedIf { s with ports := ports, orders := orders } j = { joinedIf s j with ports := ports, orders := orders } := by
  have h : joinsAs { s with ports := ports, orders := orders } j = joinsAs s j := rfl
  simp only [joinedIf, h]
  cases joinsAs s j <;> rfl

theorem joinedAll_of_ports :
    joinedAll { s with ports := ports, orders := orders } = { joinedAll s with ports := ports, orders := orders } := by
  have go : ∀ (js : List Nat) (s : State), js.foldl joinedIf { s with ports := ports, orders := orders } =
      { js.foldl joinedIf s with ports := ports, orders := orders } := by
    intro js
    induction js with
    | nil => intro s; rfl
    | cons j js ih => intro s; rw [List.foldl_cons, joinedIf_of_ports, ih, List.foldl_cons]
  exact go _ s

theorem offered_of_ports (u : Inv) :
    offered { s with ports := ports, orders := orders } u = { offered s u with ports := ports, orders := orders } := by
  have hp : pickedFor { s with ports := ports, orders := orders } u = pickedFor s u := rfl
  by_cases h : (s.channels.get u).state = .idle ∧ fivePercent (s.inverterRating u) ≤ headroomOf s
  · have hs : offered s u = (match pickedFor s u with | some j => granted s u j | none => s) := if_pos h
    rw [hs]
    refine (if_pos h).trans ?_
    rw [hp]
    cases pickedFor s u <;> rfl
  · have hs : offered s u = s := if_neg h
    rw [hs]
    exact if_neg h

theorem afterPass_of_ports :
    afterPass { s with ports := ports, orders := orders } = { afterPass s with ports := ports, orders := orders } := by
  by_cases h : s.line.mode.heating = true ∧ s.track.verified = true ∧ s.alloc.pendingLimit = none
  · have hs : afterPass s = [Inv.u1, .u2, .u3, .u4].foldl offered s := if_pos h
    rw [hs]
    refine (if_pos h).trans ?_
    simp only [List.foldl_cons, List.foldl_nil, offered_of_ports]
  · have hs : afterPass s = s := if_neg h
    rw [hs]
    exact if_neg h

end

/-- The joins of an event change the coils and the queues alone. -/
theorem joinedAll_keeps (s : State) :
    ∃ coils queues, joinedAll s = { s with alloc := { s.alloc with coils := coils, queues := queues } } := by
  have go : ∀ (js : List Nat) (s : State), ∃ coils queues,
      js.foldl joinedIf s = { s with alloc := { s.alloc with coils := coils, queues := queues } } := by
    intro js
    induction js with
    | nil => intro s; exact ⟨_, _, rfl⟩
    | cons j js ih =>
      intro s
      have h1 : ∃ coils queues, joinedIf s j = { s with alloc := { s.alloc with coils := coils, queues := queues } } := by
        simp only [joinedIf]
        split <;> exact ⟨_, _, rfl⟩
      obtain ⟨c1, q1, h1⟩ := h1
      obtain ⟨c2, q2, h2⟩ := ih (joinedIf s j)
      exact ⟨c2, q2, by rw [List.foldl_cons, h2, h1]⟩
  exact go _ s

end Sys2Proof.Machine
end

