-- ==== Sys2Proof/Laws/Link.lean ====
section
/-! SUPPORT. What the sending of a frame leaves, what a channel's pending causes and a timed-out setpoint become: one lemma per shared operation. -/

namespace Sys2Proof.Machine

/-! ## The driver and the line (R107) -/

@[simp] theorem Ev.transmit_driver (e : Ev) (x : LinkEntry) : (e.transmit x).s.link.driver = true := rfl

@[simp] theorem Ev.transmit_inFlight (e : Ev) (x : LinkEntry) :
    (e.transmit x).s.link.inFlight = some
      { entry := x, replyTimeout := e.s.settings.timers.replyTimeout, bitRate := e.s.settings.timers.bitRate
        discard := false } := rfl

@[simp] theorem Ev.releaseLine_driver (e : Ev) : e.releaseLine.s.link.driver = false := rfl

@[simp] theorem Ev.lineHears_nil (e : Ev) : e.lineHears [] = e := by simp [Ev.lineHears]

/-- Characters received while the driver is on are discarded. -/
theorem Ev.lineHears_of_driver (e : Ev) (chars : List Byte) (h : e.s.link.driver = true) : e.lineHears chars = e := by
  simp [Ev.lineHears, h]

theorem Ev.lineHears_of_listening (e : Ev) (chars : List Byte) (hc : chars ≠ []) (h : e.s.link.driver = false) :
    e.lineHears chars = e.bytesReceived chars := by
  simp [Ev.lineHears, h, hc]

/-- What is received while a frame is sent changes nothing. -/
theorem Ev.sendFrame_eq (e : Ev) (x : LinkEntry) (received : List Byte) :
    e.sendFrame x received = (e.transmit x).releaseLine := by
  rw [Ev.sendFrame, Ev.lineHears_of_driver _ _ (Ev.transmit_driver e x)]

/-- A sent frame changes the transaction in flight and the driver alone. -/
theorem Ev.sendFrame_only_link (e : Ev) (x : LinkEntry) (received : List Byte) :
    (e.sendFrame x received).s = { e.s with
      link := { e.s.link with
        inFlight := (e.transmit x).s.link.inFlight
        driver := false } } := by
  rw [Ev.sendFrame_eq]; rfl

/-! ## Pending causes (R77, R98, R99) -/

/-- A first cause of a channel without WELDED is its pending cause. -/
theorem Channel.noteCause_first (x : PendingCause) (c : Channel) (hw : c.pendingWelded = false)
    (h : c.pendingCause = none) : c.noteCause x = { c with pendingCause := some x } := by
  simp [Channel.noteCause, hw, h]

/-- A cause that is held already stays. -/
theorem Channel.noteCause_held (x y : PendingCause) (c : Channel) (h : c.pendingCause = some y) :
    c.noteCause x = c := by
  cases c; simp_all [Channel.noteCause]

/-- A cause taken while WELDED is held alone leaves the state after opening as it was (R98). -/
theorem Channel.noteCause_welded (x : PendingCause) (c : Channel) (hw : c.pendingWelded = true) :
    (c.noteCause x).afterOpen = c.afterOpen := by
  cases h : c.pendingCause <;> simp [Channel.noteCause, Channel.afterOpen, hw, h]

/-- It is in force once WELDED is dropped (R99). -/
theorem Channel.dropWelded_noteCause (x : PendingCause) (c : Channel) (hw : c.pendingWelded = true)
    (h : c.pendingCause = none) (hl : c.lateCause = none) :
    (c.noteCause x).dropWelded = { c with pendingWelded := false, pendingCause := some x } := by
  cases c; simp_all [Channel.noteCause, Channel.dropWelded]

@[simp] theorem Channel.noteCause_state (x : PendingCause) (c : Channel) : (c.noteCause x).state = c.state := by
  unfold Channel.noteCause; split <;> rfl

@[simp] theorem Channel.noteCause_coil (x : PendingCause) (c : Channel) : (c.noteCause x).coil = c.coil := by
  unfold Channel.noteCause; split <;> rfl

@[simp] theorem Channel.noteCause_accepted (x : PendingCause) (c : Channel) :
    (c.noteCause x).accepted = c.accepted := by
  unfold Channel.noteCause; split <;> rfl

@[simp] theorem Channel.noteCause_pendingWelded (x : PendingCause) (c : Channel) :
    (c.noteCause x).pendingWelded = c.pendingWelded := by
  unfold Channel.noteCause; split <;> rfl

@[simp] theorem Channel.dropWelded_state (c : Channel) : c.dropWelded.state = c.state := rfl
@[simp] theorem Channel.dropWelded_coil (c : Channel) : c.dropWelded.coil = c.coil := rfl
@[simp] theorem Channel.dropWelded_pendingWelded (c : Channel) : c.dropWelded.pendingWelded = false := rfl
@[simp] theorem Channel.dropWelded_lateCause (c : Channel) : c.dropWelded.lateCause = none := rfl

/-! ## A setpoint that timed out (R80) -/

/-- A STARTING channel whose setpoint timed out takes it as accepted. -/
theorem Channel.withTimedOut_starting (c : Channel) (hs : c.state = .starting) (ht : c.timedOut = true) :
    c.withTimedOut = { c with accepted := c.commanded.getD c.accepted } := by
  simp [Channel.withTimedOut, hs, ht]

theorem Channel.withTimedOut_otherwise (c : Channel) (h : c.state ≠ .starting ∨ c.timedOut = false) :
    c.withTimedOut = c := by
  rcases h with h | h <;> simp [Channel.withTimedOut, h]

@[simp] theorem Channel.withTimedOut_state (c : Channel) : c.withTimedOut.state = c.state := by
  unfold Channel.withTimedOut; split <;> rfl

@[simp] theorem Channel.withTimedOut_coil (c : Channel) : c.withTimedOut.coil = c.coil := by
  unfold Channel.withTimedOut; split <;> rfl

end Sys2Proof.Machine
end

