-- ==== Sys2Proof/Laws/Loss.lean ====
section
/-! SUPPORT. What the decision of START, the allocation pass and the end of an event leave of a channel, its row and the link; what entering STOPPING, the loss of a channel and the end of a clear sequence at a timeout leave (R86, R91, R100, R120). -/

namespace Sys2Proof.Machine

/-! ## The decision of START -/

/-- The channels, the link, the flag CHANNEL_FAULT of the supervisor port, the crosspoints, the track and the grants. -/
def State.linkWork (s : State) :=
  (s.channels, s.link, s.ports.supervisor.flags.channelFault, s.matrix, s.track, s.alloc.grants)

@[simp] theorem Ev.joinTest_linkWork (e : Ev) (j : Nat) : (e.joinTest j).s.linkWork = e.s.linkWork := by
  simp only [Ev.joinTest]
  (repeat' split) <;> rfl

@[simp] theorem Ev.joinAll_linkWork (e : Ev) : e.joinAll.s.linkWork = e.s.linkWork :=
  Ev.forEach_view State.linkWork _ _ (fun j e => Ev.joinTest_linkWork e j) e

@[simp] theorem Ev.cancelPending_linkWork (e : Ev) (n : SlotName) : (e.cancelPending n).s.linkWork = e.s.linkWork := by
  simp only [Ev.cancelPending]
  split <;> rfl

@[simp] theorem Ev.returnSlot_linkWork (e : Ev) (n : SlotName) : (e.returnSlot n).s.linkWork = e.s.linkWork := by
  simp only [Ev.returnSlot]
  (repeat' split) <;> rfl

@[simp] theorem Ev.recountSupply_linkWork (e : Ev) : e.recountSupply.s.linkWork = e.s.linkWork := by
  simp only [Ev.recountSupply]
  split <;> rfl

@[simp] theorem Ev.divertMeasuring_linkWork (e : Ev) : e.divertMeasuring.s.linkWork = e.s.linkWork := by
  simp only [Ev.divertMeasuring]
  split
  · exact Ev.returnSlot_linkWork _ _
  · rfl

/-- A change of mode from outside RUN, HOLD and DRAIN leaves the channels and the link (R72, R166). -/
theorem Ev.enterMode_linkWork (e : Ev) (m : Mode) (h : e.s.line.mode.heating = false) :
    (e.enterMode m).s.linkWork = e.s.linkWork := by
  have hs : ∀ x : Ev, (x.heatingFollows e.s.line.mode).s.linkWork = x.s.linkWork := by
    intro x
    simp only [Ev.heatingFollows, h, Bool.false_eq_true, if_false]
    split
    · exact Ev.joinAll_linkWork x
    · rfl
  simp only [Ev.enterMode]
  have hd : ∀ x : Ev, x.dueEval.s.linkWork = x.s.linkWork := fun _ => rfl
  rw [hd]
  split
  · rw [Ev.divertMeasuring_linkWork, Ev.recountSupply_linkWork, Ev.cancelPending_linkWork, Ev.cancelPending_linkWork, hs]
    split <;> rfl
  · rw [Ev.recountSupply_linkWork, Ev.cancelPending_linkWork, Ev.cancelPending_linkWork, hs]
    split <;> rfl

theorem Ev.changeMode_linkWork (e : Ev) (m : Mode) (h : e.s.line.mode.heating = false) :
    (e.changeMode m).s.linkWork = e.s.linkWork := by
  simp only [Ev.changeMode]
  split
  · exact Ev.enterMode_linkWork _ _ h
  · exact Ev.enterMode_linkWork _ _ h

/-- The decision of START and its answer leave the channels and the link (R170). -/
@[simp] theorem Ev.endStartRound_linkWork (e : Ev) : e.endStartRound.s.linkWork = e.s.linkWork := by
  have ha : ∀ (x : Ev) (b : ResponseBody), (x.answerStart b).s.linkWork = x.s.linkWork := by
    intro x b
    simp only [Ev.answerStart, Ev.modPort, State.linkWork, PerPort.set, PerPort.get, Prod.mk.injEq, true_and, and_true]
    by_cases h : x.s.ports.supervisor.state = .processing startCode <;> simp [h]
  simp only [Ev.endStartRound, ha, Ev.decideStart]
  split
  · rfl
  · rename_i hm
    have hm : e.s.line.mode = .standby := by simpa using hm
    (repeat' split) <;> first | rfl | exact Ev.changeMode_linkWork _ _ (by rw [hm]; rfl)

/-- A channel whose DISCOVERY read is answered is awaited no more: what the link then holds, the channels kept (R119). -/
theorem Ev.unitAnswered_linkWork (e : Ev) (u : Inv) :
    (e.unitAnswered u).s.linkWork =
      (e.s.channels,
        { e.s.link with
          discovery := e.s.link.discovery.set u .none
          rounds := (e.s.link.rounds.map fun r => { r with waiting := r.waiting.filter (· != u) }).filter
            fun r => !r.waiting.isEmpty },
        e.s.ports.supervisor.flags.channelFault, e.s.matrix, e.s.track, e.s.alloc.grants) := by
  simp only [Ev.unitAnswered]
  split
  · rw [Ev.endStartRound_linkWork]; rfl
  · rfl

/-! ## The end of an event -/

/-- The crosspoints of a channel's row. -/
def State.row (u : Inv) (s : State) : List Crosspoint := s.matrix.filter fun x => x.inverter == u

/-- A crosspoint of a channel is found in its row. -/
theorem Crosspoint.find_in_row (xs : List Crosspoint) (u : Inv) (k : Nat) :
    (xs.filter fun x => x.inverter == u).find? (fun x => x.inverter == u && x.coil == k) =
      xs.find? fun x => x.inverter == u && x.coil == k := by
  rw [List.find?_filter]
  congr 1
  funext x
  by_cases hu : x.inverter = u <;> by_cases hk : x.coil = k <;> simp [hu, hk]

/-- A channel's row names its crosspoints. -/
theorem State.crosspoint_of_row {s t : State} {u : Inv} (h : t.row u = s.row u) (k : Nat) :
    t.crosspoint u k = s.crosspoint u k := by
  simp only [State.row] at h
  simp only [State.crosspoint]
  rw [← Crosspoint.find_in_row, h, Crosspoint.find_in_row]

/-- A change of a crosspoint of another row leaves a row as it is. -/
theorem Crosspoint.row_of_other (xs : List Crosspoint) {u v : Inv} (j : Nat) (f : Crosspoint → Crosspoint) (h : u ≠ v)
    (hf : ∀ x, (f x).inverter = x.inverter) :
    ((xs.map fun x => if x.inverter == v && x.coil == j then f x else x).filter fun x => x.inverter == u) =
      xs.filter fun x => x.inverter == u := by
  induction xs with
  | nil => rfl
  | cons x xs ih =>
    simp only [List.map_cons, List.filter_cons, ih]
    by_cases hx : x.inverter = v
    · by_cases hj : x.coil = j
      · simp [hx, hj, hf, h.symm]
      · simp [hj]
    · simp [hx]

/-- What an event's end leaves alone of the channel `u`: the channel itself, the link but for its poll marks, CHANNEL_FAULT,
the crosspoints of its row and its grant. -/
def State.aside (u : Inv) (s : State) :=
  (s.channels.get u, s.link.queue, s.link.held, s.link.discovery, s.link.rounds, s.ports.supervisor.flags.channelFault,
    s.row u, s.alloc.grants.get u, s.link.inFlight, s.link.quiet)

theorem State.aside_of_linkWork {s t : State} (u : Inv) (h : s.linkWork = t.linkWork) : s.aside u = t.aside u := by
  simp only [State.linkWork, Prod.mk.injEq] at h
  simp [State.aside, State.row, h]

/-- A grant to another channel leaves a channel as it is. -/
theorem Ev.grant_aside (e : Ev) {u v : Inv} (j : Nat) (h : u ≠ v) : (e.grant v j).s.aside u = e.s.aside u := by
  have hp := Ev.grant_ports e v j
  have hm := Crosspoint.row_of_other e.s.matrix (v := v) j
    (fun x => { x with drive := true, state := .closing, timer := .running e.s.settings.timers.feedbackTimeout }) h
    fun _ => rfl
  simp only [State.aside, State.row, hp]
  simp only [Ev.grant, Ev.enterState, Ev.closeDrive, Ev.modCrosspoint, Ev.modMatrix, Ev.modChannel, Ev.modAlloc, Ev.modLink,
    Ev.leaveQueue, Ev.setCoilState, Ev.modCoil, ChannelState.pollable, ChannelState.alarms, ChannelState.isFaulted,
    ChannelState.isLocked]
  simp [PerInv.get_set_other _ _ h]
  simpa using hm

theorem Ev.offer_aside (e : Ev) {u : Inv} (v : Inv) (h : (e.s.channels.get u).state ≠ .idle) :
    (e.offer v).s.aside u = e.s.aside u := by
  simp only [Ev.offer]
  split
  · rename_i hv
    split
    · exact Ev.grant_aside _ _ fun huv => h (by subst huv; exact hv.1)
    · rfl
  · rfl

/-- A pass leaves a channel that is not IDLE as it is (R59). -/
theorem Ev.allocationPass_aside (e : Ev) {u : Inv} (h : (e.s.channels.get u).state ≠ .idle) :
    e.allocationPass.s.aside u = e.s.aside u := by
  have go : ∀ (vs : List Inv) (x : Ev), (x.s.channels.get u).state ≠ .idle →
      (x.forEach vs fun v y => y.offer v).s.aside u = x.s.aside u := by
    intro vs
    induction vs with
    | nil => intro x _; rfl
    | cons v vs ih =>
      intro x hx
      have ho := Ev.offer_aside x v hx
      have hc : ((x.offer v).s.channels.get u) = x.s.channels.get u := congrArg Prod.fst ho
      exact (ih (x.offer v) (by rw [hc]; exact hx)).trans ho
  simp only [Ev.allocationPass]
  split
  · exact go _ _ h
  · rfl

theorem Ev.evaluate_aside (e : Ev) (u : Inv) : e.evaluate.s.aside u = e.s.aside u := by
  have hv := Ev.evaluate_offEval e
  have hp := Ev.evaluate_ports_ne e (p := .supervisor) (by decide)
  simp only [State.offEval, Prod.mk.injEq] at hv
  simp only [PerPort.get] at hp
  simp [State.aside, State.row, hv, hp]

/-- The end of an event in which no channel left the working states leaves a channel that is not IDLE, and the link but for
its poll marks, as they are. -/
theorem Ev.finish_aside (e : Ev) (before : State) {u : Inv} (hi : (e.s.channels.get u).state ≠ .idle)
    (hw : ∀ v, (before.channel v).state.working = true → (e.s.channel v).state.working = true) :
    (e.finish before).aside u = e.s.aside u := by
  have h := Ev.testStopping_adopted e before before.committed (.inr hw)
  have ha : (e.adoptPending before.committed).s.aside u = e.s.aside u := by
    simp only [Ev.adoptPending]
    (repeat' split) <;> rfl
  have hi' : ((e.adoptPending before.committed).s.channels.get u).state ≠ .idle := by simpa using hi
  simp only [Ev.finish, h]
  generalize e.adoptPending before.committed = e2 at ha hi'
  have hp : (if (e2.passDue || headroomGrew before e2.s) = true then e2.allocationPass else e2).s.aside u = e.s.aside u := by
    split
    · exact (Ev.allocationPass_aside e2 hi').trans ha
    · exact ha
  generalize (if (e2.passDue || headroomGrew before e2.s) = true then e2.allocationPass else e2) = e3 at hp ⊢
  split
  · exact (Ev.evaluate_aside _ u).trans hp
  · exact hp

/-! ## The end of a clear sequence (R91, R100) -/

/-- The state R100 gives a channel whose clear sequence ends without its STATE reply. -/
def ChannelState.afterAbandon : ChannelState → ChannelState
  | .faulted _ => .faulted .linkLost
  | .locked (.faulted _) => .locked (.faulted .linkLost)
  | st => st

/-- A channel with no clear sequence in progress is lost without a change (R91, last row). -/
theorem Ev.loseWaitingClear_of_not_clearing (e : Ev) (u : Inv) (h : (e.s.channels.get u).clearing = false) :
    e.loseWaitingClear u = e := by
  simp [Ev.loseWaitingClear, State.channel, h]

/-- A discovery round that awaited the clear sequence awaits the channel no more (R120); the channels and the waiting commands
stay. -/
theorem Ev.clearServes_aside (e : Ev) (u : Inv) :
    (e.clearServes u).s.matrix = e.s.matrix ∧ (e.clearServes u).s.track = e.s.track ∧
    (e.clearServes u).s.alloc.grants = e.s.alloc.grants ∧ (e.clearServes u).s.channels = e.s.channels ∧ (e.clearServes u).s.link.queue = e.s.link.queue ∧
    (e.clearServes u).s.link.held = e.s.link.held ∧
    (e.clearServes u).s.ports.supervisor.flags.channelFault = e.s.ports.supervisor.flags.channelFault ∧
    (e.s.link.discovery.get u = .byClear → (e.clearServes u).s.link.discovery.get u = .none ∧
      ∀ y ∈ (e.clearServes u).s.link.rounds, u ∉ y.waiting) := by
  simp only [Ev.clearServes]
  split
  · have h := Ev.unitAnswered_linkWork e u
    simp only [State.linkWork, Prod.mk.injEq] at h
    refine ⟨h.2.2.2.1, h.2.2.2.2.1, h.2.2.2.2.2, h.1, by rw [h.2.1], by rw [h.2.1], h.2.2.1, fun _ => ⟨by rw [h.2.1]; simp, ?_⟩⟩
    rw [h.2.1]
    intro y hy
    simp only [List.mem_filter, List.mem_map] at hy
    obtain ⟨⟨r, _, rfl⟩, _⟩ := hy
    simp
  · exact ⟨rfl, rfl, rfl, rfl, rfl, rfl, rfl, fun h => absurd h ‹_›⟩

/-- What the end of a clear sequence without its STATE reply leaves of its channel and of the link (R100, R120). -/
structure ClearAbandoned (s t : State) (u : Inv) : Prop where
  channels : t.channels = s.channels.set u
    { s.channels.get u with clearing := false, state := (s.channels.get u).state.afterAbandon }
  queue : t.link.queue = s.link.queue
  held : t.link.held = s.link.held
  alarm : (∃ k, (s.channels.get u).state = .faulted k) → t.ports.supervisor.flags.channelFault = true
  served : s.link.discovery.get u = .byClear →
    t.link.discovery.get u = .none ∧ ∀ y ∈ t.link.rounds, u ∉ y.waiting

theorem ClearAbandoned.of_serves {s : State} {e : Ev} {u : Inv}
    (hc : e.s.channels = s.channels.set u
      { s.channels.get u with clearing := false, state := (s.channels.get u).state.afterAbandon })
    (hq : e.s.link.queue = s.link.queue) (hh : e.s.link.held = s.link.held)
    (hd : e.s.link.discovery = s.link.discovery)
    (hf : (∃ k, (s.channels.get u).state = .faulted k) → e.s.ports.supervisor.flags.channelFault = true) :
    ClearAbandoned s (e.clearServes u).s u := by
  obtain ⟨-, -, -, c, q, h, f, d⟩ := Ev.clearServes_aside e u
  exact ⟨c.trans hc, q.trans hq, h.trans hh, fun k => f.trans (hf k), fun b => d (by rw [hd]; exact b)⟩

/-- A channel that takes a state takes nothing else, and no command that waits on the link changes. -/
theorem Ev.enterState_spec (e : Ev) (u : Inv) (st : ChannelState) :
    (e.enterState u st).s.channels = e.s.channels.set u { e.s.channels.get u with state := st } ∧
    (e.enterState u st).s.link.queue = e.s.link.queue ∧ (e.enterState u st).s.link.held = e.s.link.held ∧
    (e.enterState u st).s.link.discovery = e.s.link.discovery := by
  simp only [Ev.enterState]
  (repeat' split) <;> exact ⟨rfl, rfl, rfl, rfl⟩

theorem Ev.abandonClear_spec (e : Ev) (u : Inv) : ClearAbandoned e.s (e.abandonClear u).s u := by
  simp only [Ev.abandonClear, State.channel]
  cases hs : (e.s.channels.get u).state with
  | faulted k =>
    obtain ⟨hc, hq, hh, hd⟩ :=
      Ev.enterState_spec (e.modChannel u fun x => { x with clearing := false }) u (.faulted .linkLost)
    refine .of_serves (hc.trans ?_) hq hh hd fun _ => rfl
    simp [ChannelState.afterAbandon, hs]
  | locked f =>
    cases f <;> exact .of_serves (by simp [ChannelState.afterAbandon, hs]) rfl rfl rfl (by simp [hs])
  | _ => exact .of_serves (by simp [ChannelState.afterAbandon, hs]) rfl rfl rfl (by simp [hs])

/-- The last row of R91 with a clear sequence in progress: it ends as R100 states, and no command of it waits any more. -/
theorem Ev.loseWaitingClear_spec (e : Ev) (u : Inv) (h : (e.s.channels.get u).clearing = true) :
    ClearAbandoned (e.withdrawClear u).s (e.loseWaitingClear u).s u := by
  have hc : (e.s.channel u).clearing = true := h
  simp only [Ev.loseWaitingClear, hc, if_true]
  exact Ev.abandonClear_spec _ u

theorem Ev.withdrawClear_queue (e : Ev) (u : Inv) :
    ∀ y ∈ (e.withdrawClear u).s.link.queue, y.owner = u → y.purpose ≠ .clear := by
  intro y hy ho
  have := (List.mem_filter.mp hy).2
  simpa [ho] using this

theorem Ev.withdrawClear_held (e : Ev) (u : Inv) :
    ∀ y, (e.withdrawClear u).s.link.held.get u = some y → y.purpose ≠ .clear := by
  intro y hy
  have hy : ((e.s.link.held.set u _).get u) = some y := hy
  rw [PerInv.get_set_same] at hy
  have := (Option.filter_eq_some_iff.mp hy).2
  simpa using this

/-! ## Entering STOPPING and the loss of a channel (R77, R86, R91) -/

/-- A release with cause FAULT marks the grant released and stops its slice timer; the rest of the state stays (R67, R77). -/
theorem Ev.release_fault_spec (e : Ev) (u : Inv) :
    ∃ a : Allocator, (e.release u .fault).s = { e.s with alloc := a } ∧
      ∀ g, e.s.alloc.grants.get u = some g → a.grants.get u = some { g with released := true } := by
  simp only [Ev.release]
  split
  · rename_i h
    exact ⟨e.s.alloc, rfl, by simp [h]⟩
  · rename_i g h
    split
    · rename_i hr
      exact ⟨e.s.alloc, rfl, by simp [h, ← hr]⟩
    · exact ⟨_, rfl, by simp [h]⟩

/-- A command that joins the queue waits at its tail or behind its channel's start-up stop; nothing is sent by it (R113, R118). -/
theorem Ev.enqueue_spec (e : Ev) (x : LinkEntry) :
    (e.enqueue x).s.channels = e.s.channels ∧ (e.enqueue x).s.link.inFlight = e.s.link.inFlight ∧
    (e.enqueue x).s.link.quiet = e.s.link.quiet ∧
    ((e.enqueue x).s.link.queue.getLast? = some x ∨ (e.enqueue x).s.link.held.get x.owner = some x) := by
  simp only [Ev.enqueue]
  split
  · exact ⟨rfl, rfl, rfl, .inr (by simp)⟩
  · exact ⟨rfl, rfl, rfl, .inl (by simp [putAtTail])⟩

/-- Entering STOPPING: what the channel then holds, and the STOP_OUTPUT that waits (R86). -/
theorem Ev.enterStopping_spec (e : Ev) (u : Inv) :
    (e.enterStopping u).s.channels = e.s.channels.set u
      { e.s.channels.get u with
        state := .stopping, commanded := none, deferred := none, retry := none, sent := false, timedOut := false
        stopConfirm := .running e.s.settings.timers.stopConfirm } ∧
    (e.enterStopping u).s.link.inFlight = e.s.link.inFlight ∧ (e.enterStopping u).s.link.quiet = e.s.link.quiet ∧
    ((e.enterStopping u).s.link.queue.getLast? = some { owner := u, command := .stopOutput, purpose := .control } ∨
      (e.enterStopping u).s.link.held.get u = some { owner := u, command := .stopOutput, purpose := .control }) := by
  have hs : ∀ x : Ev, x.enterState u .stopping = x.modChannel u fun c => { c with state := .stopping } := fun _ => rfl
  simp only [Ev.enterStopping, hs]
  generalize hx : Ev.stopSlice _ u = x
  obtain ⟨hc, hf, hq, hw⟩ := Ev.enqueue_spec x { owner := u, command := .stopOutput, purpose := .control }
  refine ⟨hc.trans ?_, hf.trans ?_, hq.trans ?_, hw⟩
  · subst hx; simp [Ev.stopSlice, Ev.withdraw]
  · subst hx; rfl
  · subst hx; rfl

/-- A lost channel with no connection is FAULTED(LINK_LOST), its clear sequence ended and its waiting commands withdrawn; no
drive moves (R91, R123). -/
theorem Ev.loseUnconnected_spec (e : Ev) (u : Inv) :
    (e.loseUnconnected u).s.channels = e.s.channels.set u
      { e.s.channels.get u with clearing := false, retry := none, state := .faulted .linkLost } ∧
    (e.loseUnconnected u).s.matrix = e.s.matrix ∧ (e.loseUnconnected u).s.track = e.s.track ∧
    (e.loseUnconnected u).s.line = e.s.line ∧ (e.loseUnconnected u).s.ports.supervisor.flags.channelFault = true ∧
    ∀ z ∈ (e.loseUnconnected u).s.link.queue, z.owner = u → z.purpose = .startStop := by
  refine ⟨?_, rfl, rfl, rfl, rfl, ?_⟩
  · simp only [Ev.loseUnconnected, (Ev.enterState_spec _ _ _).1]
    simp [Ev.withdraw]
  · intro z hz ho
    simp only [Ev.loseUnconnected, (Ev.enterState_spec _ _ _).2.1] at hz
    simp only [Ev.withdraw, Ev.modChannel_link, Ev.modLink_link, List.mem_filter] at hz
    simpa [ho, LinkEntry.isStartStop] using hz.2

end Sys2Proof.Machine
end

