-- ==== Sys2Proof/Laws/Memory.lean ====
section
/-! SUPPORT. The EEPROM's canonical form: every write keeps it, and a read after a write (R198, R204, R205). -/

namespace Sys2Proof.Machine

theorem readByte_of_below {m : List Host.Cell} {lo a : Nat} (h : memoryWfFrom lo m = true) (ha : a < lo) :
    readByte m a = 0xFF := by
  induction m generalizing lo with
  | nil => rfl
  | cons c rest ih =>
    obtain ⟨k, v⟩ := c
    simp only [memoryWfFrom, Bool.and_eq_true, decide_eq_true_eq] at h
    have hk : ¬ k = a := by omega
    simp only [readByte, hk, if_false]
    exact ih h.2 (by omega)

theorem memoryWfFrom_mono {m : List Host.Cell} {lo lo' : Nat} (h : memoryWfFrom lo m = true) (hl : lo' ≤ lo) :
    memoryWfFrom lo' m = true := by
  cases m with
  | nil => rfl
  | cons c rest =>
    obtain ⟨k, v⟩ := c
    simp only [memoryWfFrom, Bool.and_eq_true, decide_eq_true_eq] at h ⊢
    exact ⟨⟨by omega, h.1.2⟩, h.2⟩

theorem writeByte_wfFrom {m : List Host.Cell} {lo a : Nat} {v : Byte} (h : memoryWfFrom lo m = true) (ha : lo ≤ a) :
    memoryWfFrom lo (writeByte m a v) = true := by
  induction m generalizing lo with
  | nil =>
    simp only [writeByte]
    split
    · rfl
    · simp_all [memoryWfFrom]
  | cons c rest ih =>
    obtain ⟨k, w⟩ := c
    simp only [memoryWfFrom, Bool.and_eq_true, decide_eq_true_eq] at h
    obtain ⟨⟨hk, hw⟩, hr⟩ := h
    simp only [writeByte]
    split
    · split
      · simp_all [memoryWfFrom]
      · simp_all [memoryWfFrom] <;> omega
    · split
      · split
        · exact memoryWfFrom_mono hr (by omega)
        · simp_all [memoryWfFrom]
      · simp only [memoryWfFrom, Bool.and_eq_true, decide_eq_true_eq]
        exact ⟨⟨hk, hw⟩, ih hr (by omega)⟩

/-- A write keeps the canonical form. -/
theorem writeByte_wf {m : List Host.Cell} (h : Memory.wf m = true) (a : Nat) (v : Byte) :
    Memory.wf (writeByte m a v) = true :=
  writeByte_wfFrom h (Nat.zero_le a)

theorem readByte_writeByte_from {m : List Host.Cell} {lo : Nat} (h : memoryWfFrom lo m = true) (a b : Nat) (v : Byte) :
    readByte (writeByte m a v) b = if b = a then v else readByte m b := by
  induction m generalizing lo with
  | nil =>
    simp only [writeByte]
    split <;> split <;> simp_all [readByte]
    all_goals (intro hab; exact absurd hab.symm (by assumption))
  | cons c rest ih =>
    obtain ⟨k, w⟩ := c
    simp only [memoryWfFrom, Bool.and_eq_true, decide_eq_true_eq] at h
    obtain ⟨⟨hk, hw⟩, hr⟩ := h
    simp only [writeByte]
    by_cases h1 : a < k
    · simp only [h1, if_true]
      by_cases hv : v = 0xFF
      · simp only [hv, if_true]
        by_cases hb : b = a
        · subst hb
          have h2 : ¬ k = b := by omega
          simp only [readByte, h2, if_false, if_true]
          exact readByte_of_below hr (by omega)
        · simp [hb]
      · simp only [hv, if_false]
        by_cases hb : b = a
        · simp [hb, readByte]
        · have : ¬ a = b := fun x => hb x.symm
          simp [hb, this, readByte]
    · simp only [h1, if_false]
      by_cases h2 : a = k
      · subst h2
        simp only [if_true]
        by_cases hv : v = 0xFF
        · simp only [hv, if_true]
          by_cases hb : b = a
          · subst hb
            simp only [if_true]
            exact readByte_of_below hr (by omega)
          · have : ¬ a = b := fun x => hb x.symm
            simp [hb, this, readByte]
        · simp only [hv, if_false]
          by_cases hb : b = a
          · simp [hb, readByte]
          · have : ¬ a = b := fun x => hb x.symm
            simp [hb, this, readByte]
      · simp only [h2, if_false, readByte]
        by_cases hkb : k = b
        · have : ¬ b = a := by omega
          simp [hkb, this]
        · simp only [hkb, if_false]
          exact ih hr

/-- A read after a write gives the byte written at its address and the old byte everywhere else. -/
theorem readByte_writeByte {m : List Host.Cell} (h : Memory.wf m = true) (a b : Nat) (v : Byte) :
    readByte (writeByte m a v) b = if b = a then v else readByte m b :=
  readByte_writeByte_from h a b v

theorem foldl_writeByte_wf (ws : List (Nat × Byte)) {m : List Host.Cell} (h : Memory.wf m = true) :
    Memory.wf (ws.foldl (fun acc w => writeByte acc w.1 w.2) m) = true := by
  induction ws generalizing m with
  | nil => exact h
  | cons w ws ih => exact ih (writeByte_wf h w.1 w.2)

/-- Any prefix of the writes of a store keeps the canonical form. -/
theorem afterWrites_wf (image : List Byte) (n : Nat) {m : List Host.Cell} (h : Memory.wf m = true) :
    Memory.wf (afterWrites image n m) = true :=
  foldl_writeByte_wf _ h

theorem eepromAtReset_wf (s : State) (n : Nat) (h : Memory.wf s.loader.eeprom = true) :
    Memory.wf (s.eepromAtReset n) = true := by
  unfold State.eepromAtReset
  split
  · exact afterWrites_wf _ _ h
  · exact h

theorem reset_eeprom_wf : Memory.wf State.reset.loader.eeprom = true := rfl

end Sys2Proof.Machine
end

