-- ==== Sys2Proof/Laws/Transfers.lean ====
section
/-! SUPPORT. A port transaction by its opening, what a request leaves of the ports, what a port shifts out, the end of an image, the EEPROM after a reset that interrupts a store, the characters of the pyrometer. -/

namespace Sys2Proof.Machine

/-! ## Transactions (R185, R186, R207) -/

@[simp] theorem State.transaction_unfinished (s : State) (p : Port) (bytes : List Byte) :
    s.transaction p bytes .unfinished = s.deselect p := rfl

@[simp] theorem State.transaction_beforeReset (s : State) (p : Port) (bytes : List Byte) :
    s.transaction p bytes .beforeReset = s.deselect p := rfl

/-- The assertion of a chip select takes the status byte and the port state as they stand, and does nothing else. -/
theorem State.transaction_asserted (s : State) (p : Port) (bytes : List Byte) (h : (s.ports.get p).select = .released) :
    s.transaction p bytes .asserted =
      s.modPort p fun r => { r with select := .selected (r.statusByte p) r.state } := by
  simp [State.transaction, State.modPort, PortRec.assert, h]

/-- Whatever its selector, a transaction whose chip select is ignored only ends. -/
theorem State.transaction_ignored (s : State) (p : Port) (bytes : List Byte) (b : Byte)
    (h : (s.ports.get p).select = .ignored) : s.transaction p bytes (.selector b) = s.deselect p :=
  State.ended_ignored s p (fun s => s.transferred p bytes (transferOf b)) h

theorem State.transaction_request (s : State) (p : Port) (bytes : List Byte) (h : (s.ports.get p).select ≠ .ignored) :
    s.transaction p bytes (.selector 0xA5) = s.requested p bytes :=
  State.ended_heeded s p (fun s => s.transferred p bytes .request) h

theorem State.transaction_fetch (s : State) (p : Port) (bytes : List Byte) (h : (s.ports.get p).select ≠ .ignored) :
    s.transaction p bytes (.selector 0xC3) = s.fetched p (s.fetchExtent p bytes.length) :=
  State.ended_heeded s p (fun s => s.transferred p bytes .fetch) h

/-- Any other selector is a status read. -/
theorem State.transaction_status (s : State) (p : Port) (bytes : List Byte) (b : Byte)
    (h : (s.ports.get p).select ≠ .ignored) (h1 : b ≠ 0xA5) (h2 : b ≠ 0xC3) :
    s.transaction p bytes (.selector b) = s.shiftOut p none := by
  have ht : transferOf b = .status := by rw [transferOf, if_neg h1, if_neg h2]
  simp only [State.transaction, State.ended_heeded s p _ h, State.transferred, ht]

/-- A FETCH that shifts its status byte whole and is heeded. -/
theorem State.fetched_heeded (s : State) (p : Port) (h : (s.ports.get p).select ≠ .ignored) :
    s.fetched p .partly = s.fetchEnds p false ∧ s.fetched p .whole = s.fetchEnds p true := by
  simp [State.fetched, State.ended_heeded s p _ h]

theorem State.fetched_ignored (s : State) (p : Port) (extent : FetchExtent) (h : (s.ports.get p).select = .ignored) :
    s.fetched p extent = s.deselect p := by
  simp [State.fetched, State.ended_ignored s p _ h]

@[simp] theorem State.fetched_noStatus (s : State) (p : Port) : s.fetched p .noStatus = s.deselect p := by
  simp [State.fetched, State.ended]

/-! ## What a transaction takes at its assertion (R186, R191) -/

theorem PortRec.opened_selected (r : PortRec) (p : Port) {b : Byte} {st : PortState} (h : r.select = .selected b st) :
    r.opened p = (b, st) := by
  simp [PortRec.opened, h]

theorem PortRec.opened_unselected (r : PortRec) (p : Port) (h : ∀ b st, r.select ≠ .selected b st) :
    r.opened p = (r.statusByte p, r.state) := by
  unfold PortRec.opened
  split
  · rename_i b st hs
    exact absurd hs (h b st)
  · rfl
  · rfl

/-- The items of the status byte (R186, R207). -/
theorem PortRec.statusByte_items (r : PortRec) (p : Port) :
    (r.statusByte p).extractLsb' 0 2 = BitVec.ofNat 2 r.state.code ∧ (r.statusByte p).getLsbD 2 = r.attn ∧
      (r.statusByte p).getLsbD 3 = r.overrun ∧ (r.statusByte p).extractLsb' 4 2 = BitVec.ofNat 2 (Port.identity p) := by
  unfold PortRec.statusByte
  generalize r.attn = a
  generalize r.overrun = o
  cases r.state <;> simp only [PortState.code] <;> cases a <;> cases o <;> cases p <;> decide

/-- The status byte of a transaction depends on no item of the record but its chip select once that is asserted: no change of
the record alters it (R186). -/
theorem PortRec.opened_of_select (r r' : PortRec) (p : Port) {b : Byte} {st : PortState} (h : r.select = .selected b st)
    (h' : r'.select = r.select) : r'.opened p = r.opened p := by
  rw [PortRec.opened_selected r p h, PortRec.opened_selected r' p (h'.trans h)]

/-! ## What a request does to the wires of the ports (R185, R186, R188) -/

@[simp] theorem State.pressHeard_wires (s : State) (p : Port) : (s.pressHeard p).wires = s.wires := by
  cases p <;> rfl

theorem State.modPort_wires (s : State) (p : Port) (f : PortRec → PortRec) (h : ∀ r, (f r).wire = r.wire) :
    (s.modPort p f).wires = s.wires :=
  State.wires_set s p (h _)

@[simp] theorem State.hold_wires (s : State) (p : Port) (code : Byte) (body : ResponseBody) :
    (s.hold p code body).wires = s.wires :=
  State.modPort_wires s p _ fun _ => rfl

theorem Ev.finish_wires (e : Ev) (before : State) : (e.finish before).wires = e.s.wires :=
  State.wires_of_fixedPart (Ev.finish_fixedPart e before)

/-- The taking of a request leaves the wires that the owning block leaves. -/
theorem State.takeRequest_wires (s : State) (p : Port) (code : Byte) (take : State → Taken)
    (h : ∀ s' e b, take s' = .change e b → e.s.wires = s'.wires) : (s.takeRequest p code take).wires = s.wires := by
  have hm : (s.modPort p fun x => { x with state := .processing code }).wires = s.wires :=
    State.modPort_wires s p _ fun _ => rfl
  unfold State.takeRequest
  split
  · rw [State.hold_wires]
    rfl
  · next e body heq => rw [State.hold_wires, Ev.finish_wires, h _ _ _ heq, hm]
  · next e heq => rw [Ev.finish_wires, h _ _ _ heq, hm]

/-- A request transaction leaves the wires of the other ports, and its own chip select deasserted. -/
theorem State.request_wires (s : State) (p : Port) (code : Byte) (take : State → Taken)
    (h : ∀ s' e b, take s' = .change e b → e.s.wires = s'.wires) :
    (∀ q, q ≠ p → ((s.request p code take).ports.get q).wire = (s.ports.get q).wire) ∧
      ((s.request p code take).ports.get p).select = .released := by
  have hw : ∀ t : State, t.wires = (s.shiftOut p none).wires →
      (∀ q, q ≠ p → (t.ports.get q).wire = (s.ports.get q).wire) ∧ (t.ports.get p).select = .released := by
    intro t ht
    refine ⟨fun q hq => ?_, ?_⟩
    · rw [State.wire_of_wires ht, State.shiftOut, State.modPort_get_other s _ hq]
    · have := congrArg (fun w => w.2.1) (State.wire_of_wires ht p)
      simpa [PortRec.wire, State.shiftOut, State.modPort] using this
  by_cases hi : (s.ports.get p).select = .ignored
  · rw [State.request_ignored s p code take hi]
    refine ⟨fun q hq => ?_, ?_⟩
    · rw [State.deselect, State.modPort_get_other s _ hq]
    · simp [State.deselect, State.modPort]
  · by_cases hs : (s.ports.get p).state = .idle
    · by_cases hp : permitted p code.toNat = true
      · rw [State.request_taken s p code take hi hs hp]
        exact hw _ ((State.takeRequest_wires _ p code take h).trans (State.pressHeard_wires _ p))
      · rw [State.request_notPermitted s p code take hi hs (by simpa using hp)]
        exact hw _ ((State.hold_wires _ p _ _).trans (State.pressHeard_wires _ p))
    · rw [State.request_busy s p code take hi hs]
      obtain ⟨h1, h2⟩ := hw _ (State.pressHeard_wires _ p)
      refine ⟨fun q hq => ?_, ?_⟩
      · rw [State.modPort_get_other _ _ hq, h1 q hq]
      · simpa [State.modPort] using h2

/-! ## What a port shifts out (R186, R191, R206) -/

@[simp] theorem Shifted.length_bytes (x : Shifted) (n : Nat) : (x.bytes n).length = n := by
  simp only [Shifted.bytes, List.length_append, List.length_take, List.length_replicate]
  omega

/-- The bytes of a status read after its status byte are filler. -/
theorem Shifted.bytes_status (status : Byte) (n : Nat) :
    Shifted.bytes { status := status, response := none } (n + 1) = status :: List.replicate n filler := by
  simp [Shifted.bytes]

/-! ## The end of an image (R198, R199) -/

theorem le_imageEnd (m : List Host.Cell) (fuel a : Nat) : a ≤ imageEnd m fuel a := by
  induction fuel generalizing a with
  | zero => exact Nat.le_refl a
  | succ fuel ih =>
    simp only [imageEnd]
    split
    · omega
    · exact Nat.le_trans (by omega) (ih _)

/-- A byte past the end of an image that passes every check is no finding. -/
theorem State.loadFinding_past_end (s : State) (a : Nat) (g : Staging) (h : s.loadOutcome = some g)
    (ha : imageEnd s.loader.eeprom 4097 0 ≤ a + 1) : s.loadFinding (some (a + 1)) = none := by
  have : ¬ a + 1 < imageEnd s.loader.eeprom 4097 0 := by omega
  simp [State.loadFinding, State.loadReads, h, this]

/-! ## A store that a reset interrupts (R205) -/

theorem mapNumbered_pairs_below (k : Nat) (xs : List Byte) : ∀ w ∈ mapNumbered (fun a b => (a, b)) k xs, k ≤ w.1 := by
  induction xs generalizing k with
  | nil => simp [mapNumbered]
  | cons x xs ih =>
    intro w hw
    simp only [mapNumbered, List.mem_cons] at hw
    rcases hw with rfl | hw
    · exact Nat.le_refl k
    · exact Nat.le_trans (Nat.le_succ k) (ih (k + 1) w hw)

theorem readByte_foldl_of_ne (ws : List (Nat × Byte)) {m : List Host.Cell} (h : Memory.wf m = true) (a : Nat)
    (hw : ∀ w ∈ ws, w.1 ≠ a) : readByte (ws.foldl (fun acc w => writeByte acc w.1 w.2) m) a = readByte m a := by
  induction ws generalizing m with
  | nil => rfl
  | cons w ws ih =>
    have hne : a ≠ w.1 := fun h => hw w (by simp) h.symm
    rw [List.foldl_cons, ih (writeByte_wf h _ _) fun x hx => hw x (by simp [hx]), readByte_writeByte h]
    simp [hne]

/-- A reset that finds a store in WRITING leaves byte 0 as it was before the store's first write, and 00h after it. -/
theorem eepromAtReset_first (s : State) (n : Nat) (image : List Byte) (h : Memory.wf s.loader.eeprom = true)
    (hs : s.loader.store = .writing image) :
    readByte (s.eepromAtReset n) 0 = if n = 0 then readByte s.loader.eeprom 0 else 0 := by
  cases n with
  | zero => simp [State.eepromAtReset, hs, afterWrites]
  | succ n =>
    simp only [State.eepromAtReset, hs, Nat.add_eq_zero_iff, Nat.one_ne_zero, and_false, if_false]
    obtain ⟨k, hk, hle⟩ : ∃ k, min (n + 1) ((storeWrites image).length - 1) = k + 1 ∧
        k ≤ (mapNumbered (fun a (b : Byte) => (a, b)) 1 (image.drop 1)).length := by
      refine ⟨min (n + 1) ((storeWrites image).length - 1) - 1, ?_, ?_⟩ <;>
        simp only [storeWrites, List.length_append, List.length_cons, List.length_nil] <;> omega
    rw [hk, afterWrites]
    have ht : (storeWrites image).take (k + 1) =
        (0, 0) :: (mapNumbered (fun a (b : Byte) => (a, b)) 1 (image.drop 1)).take k := by
      simp only [storeWrites, List.cons_append, List.take_succ_cons]
      rw [List.take_append_of_le_length hle]
    rw [ht, List.foldl_cons, readByte_foldl_of_ne _ (writeByte_wf h _ _), readByte_writeByte h]
    · simp
    · intro w hw
      have := mapNumbered_pairs_below 1 (image.drop 1) w (List.mem_of_mem_take hw)
      omega

/-! ## The characters of the pyrometer (R211) -/

/-- The hunt ends at a preamble value, or without a character. -/
theorem huntAgain_head (cs : List PyroChar) (c : PyroChar) (rest : List PyroChar) (h : huntAgain cs = c :: rest) :
    c.value = 0xA5 := by
  induction cs with
  | nil => simp [huntAgain] at h
  | cons x xs ih =>
    simp only [huntAgain] at h
    split at h
    · next hx => cases h; exact hx
    · exact ih h

/-- The hunt skips characters that are no preamble value and keeps the others. -/
theorem huntAgain_split (cs : List PyroChar) :
    ∃ skipped, cs = skipped ++ huntAgain cs ∧ ∀ c ∈ skipped, c.value ≠ 0xA5 := by
  induction cs with
  | nil => exact ⟨[], rfl, by simp⟩
  | cons x xs ih =>
    simp only [huntAgain]
    split
    · exact ⟨[], rfl, by simp⟩
    · next hx =>
      obtain ⟨sk, h1, h2⟩ := ih
      refine ⟨x :: sk, by rw [List.cons_append, ← h1], ?_⟩
      intro c hc
      rcases List.mem_cons.mp hc with rfl | hc
      · exact hx
      · exact h2 c hc

end Sys2Proof.Machine
end

