-- ==== Sys2Proof/Tests/Slice0.lean ====
section
/-! SUPPORT. Our own tests: the ill-formed terms the check refuses, the commands one step each on small states, and for each statement a state and operands that meet its hypotheses. -/

namespace Sys2Proof.Tests
open Sys2Proof Sys2Proof.Machine Sys2Proof.Stated

set_option Elab.async false

/-! ## Small states -/

/-- A line of 8 positions with two coils and two inverters. -/
def geo : Geometry :=
  { positions := 8, coils := [⟨1, 4, 400⟩, ⟨5, 7, 300⟩], ratings := [300, 200] }

def data : RecipeData :=
  { grade := 7, target := 1800, fractions := [60, 100, 0, 0, 0, 0, 0, 0, 0, 0, 0, 0], soak := 20, maxHold := 60
    lossRate := 4, windowLow := 900, windowHigh := 1100, learningBlock := false, correction := 0 }

def billet (id : Nat) (th : Thermal) : Billet :=
  { id := id, grade := 7, recipe := 0, charge := some id, thermal := th, delivered := 0, target := some 1800, loss := 0
    suspect := none, reject := false }

def readyBillet : Billet := { billet 9 (.ready 3) with delivered := 1800 }

def gaps : List Slot := List.replicate 8 .gap

/-- A billet to heat in coil C1, a READY one at the exit. -/
def loaded : List Slot := [.gap, .gap, .billet (billet 3 .heating), .gap, .gap, .gap, .gap, .billet readyBillet]

def idleChannel : Channel := { Channel.reset with state := .idle, baseline := some 100 }

def open_ (u : Inv) (j : Nat) : Crosspoint :=
  { inverter := u, coil := j, drive := false, state := .opened, timer := .stopped, drop := false }

/-- A configured line in STANDBY with an empty verified track. -/
def standby : State :=
  { State.reset with
    line := { LineCtl.reset with mode := .standby }
    track := { TrackMgr.reset with geometry := some geo, slots := gaps, verified := true, unattributed := [0, 0] }
    recipes := { RecipeTable.reset with entries := { state := .stored, data := data } :: List.replicate 47 Recipe.empty }
    alloc := { Allocator.reset with
      coils := List.replicate 2 { state := .unpowered, disable := false, demand := 0, lead := none }, effective := 1000 }
    channels := ⟨idleChannel, idleChannel, Channel.reset, Channel.reset⟩
    matrix := [open_ .u1 1, open_ .u1 2, open_ .u2 2]
    link := { Link.reset with startMark := ⟨false, false, true, true⟩, pollTimer := .running 200 }
    orders := { OrderMgr.reset with silence := .running 3000 }
    loader := { State.reset.loader with load := .applied } }

def inMode (m : Mode) (s : State) : State := { s with line := { s.line with mode := m } }

def withSlots (x : List Slot) (s : State) : State := { s with track := { s.track with slots := x } }

def withCradle (c : Option PendingBillet) (s : State) : State := { s with track := { s.track with cradle := c } }

def withPush (r : PushRecord) (s : State) : State := { s with push := { s.push with record := some r, timer := .running 10000 } }

def withChannel (u : Inv) (c : Channel) (s : State) : State := { s with channels := s.channels.set u c }

def withPort (p : Port) (r : PortRec) (s : State) : State := { s with ports := s.ports.set p r }

def withOrders (a b : OrderSlot) (s : State) : State := { s with orders := { s.orders with a := a, b := b } }

/-- U1 heats C1: closed crosspoint, grant 1, setpoint 300 kW. -/
def heating : State :=
  { withSlots loaded standby with
    line := { LineCtl.reset with mode := .run }
    alloc := { standby.alloc with
      coils := [{ state := .assigned .u1, disable := false, demand := 1080, lead := some ⟨3, .heating⟩ },
        { state := .unpowered, disable := false, demand := 0, lead := none }]
      grants := ⟨some ⟨1, 1, false⟩, none, none, none⟩, grantCounter := 2, slice := ⟨.running 20, .stopped, .stopped, .stopped⟩ }
    channels := standby.channels.set .u1
      { idleChannel with state := .energized, coil := some 1, grantSetpoint := 300, accepted := 300 }
    matrix := [{ open_ .u1 1 with drive := true, state := .closed }, open_ .u1 2, open_ .u2 2]
    lines := { standby.lines with feedback := ⟨[true] ++ List.replicate 11 false, List.replicate 12 false, List.replicate 12 false, List.replicate 12 false⟩ } }

/-- RUN with the READY billet at the exit and no channel in service. -/
def run : State := { inMode .run (withSlots loaded standby) with channels := PerInv.all Channel.reset }

/-- A transaction in flight. -/
def inFlight (x : LinkEntry) (s : State) : State :=
  { s with link := { s.link with inFlight := some { entry := x, replyTimeout := 20, bitRate := .kbit115, discard := false } } }

/-- A command ends in a next state that satisfies a test. -/
def gives (c : Instr) (s : State) (p : State → Bool) : Bool :=
  match exec c s with
  | .next t => p t
  | _ => false

def answer (t : State) (p : Port) : Option ResponseBody :=
  match (t.ports.get p).state with
  | .ready r => some r.body
  | _ => none

/-- A request is answered with a body on its port. -/
def answers (c : Instr) (s : State) (p : Port) (b : ResponseBody) : Bool := gives c s fun t => decide (answer t p = some b)

/-! ## Ill-formed terms -/

theorem test_wf_accepts : Instr.wf (.demand .press 255 600) = true ∧ Instr.wf (.setLine .supervisor geo) = true ∧
    Instr.wf (.writeRecipe .supervisor 47 data true) = true ∧ Instr.wf (.hardwareReset 8193) = true := by decide +kernel
theorem test_wf_hardwareReset : Instr.wf (.hardwareReset 8194) = false := by decide
theorem test_wf_loadFailed : Instr.wf (.loadFailed (some 8192)) = false := by decide
theorem test_wf_storeNoAck : Instr.wf (.storeNoAck 8193) = false := by decide
theorem test_wf_readTrack : Instr.wf (.readTrack .press 256 1) = false ∧ Instr.wf (.readTrack .press 1 256) = false := by decide
theorem test_wf_readTrackField : Instr.wf (.readTrackField .press 256 1 1) = false ∧
    Instr.wf (.readTrackField .press 1 256 1) = false ∧ Instr.wf (.readTrackField .press 1 1 256) = false := by decide
theorem test_wf_readHistory : Instr.wf (.readHistory .press 256) = false := by decide
theorem test_wf_kinds : Instr.wf (.ackEvents .press [256]) = false ∧
    Instr.wf (.ackEvents .press (List.replicate 17 0)) = false ∧ Instr.wf (.setEventMask .press [256]) = false ∧
    Instr.wf (.setEventMask .press (List.replicate 17 0)) = false := by decide +kernel
theorem test_wf_orders : Instr.wf (.demand .press 256 0) = false ∧ Instr.wf (.demand .press 0 65536) = false ∧
    Instr.wf (.cancelOrder .press 256) = false ∧ Instr.wf (.releaseOrder .press 256) = false := by decide
theorem test_wf_loadBillet : Instr.wf (.loadBillet .feeder 4294967296 1) = false ∧
    Instr.wf (.loadBillet .feeder 1 65536) = false := by decide
theorem test_wf_push : Instr.wf (.pushDone .feeder 256) = false ∧ Instr.wf (.pushFaultNotStarted .feeder 256) = false ∧
    Instr.wf (.pushFaultIncomplete .feeder 256) = false := by decide
theorem test_wf_declareSlots : Instr.wf (.declareSlots .supervisor 256 [.gap]) = false ∧
    Instr.wf (.declareSlots .supervisor 1 []) = false ∧
    Instr.wf (.declareSlots .supervisor 1 (List.replicate 8 .gap)) = false ∧
    Instr.wf (.declareSlots .supervisor 1 [.billet 4294967296 1]) = false ∧
    Instr.wf (.declareSlots .supervisor 1 [.billet 1 65536]) = false := by decide +kernel
theorem test_wf_marks : Instr.wf (.markReject .supervisor 256 1) = false ∧
    Instr.wf (.markReject .supervisor 1 4294967296) = false ∧ Instr.wf (.clearSuspect .supervisor 256 1) = false ∧
    Instr.wf (.clearSuspect .supervisor 1 4294967296) = false := by decide
theorem test_wf_recipeIndex : Instr.wf (.writeRecipe .supervisor 256 data true) = false ∧
    Instr.wf (.deleteRecipe .supervisor 256) = false ∧ Instr.wf (.readRecipe .supervisor 256) = false := by decide
theorem test_wf_recipeWords : RecipeData.wf { data with grade := 65536 } = false ∧
    RecipeData.wf { data with target := 65536 } = false ∧ RecipeData.wf { data with soak := 65536 } = false ∧
    RecipeData.wf { data with maxHold := 65536 } = false ∧ RecipeData.wf { data with lossRate := 65536 } = false ∧
    RecipeData.wf { data with windowLow := 65536 } = false ∧ RecipeData.wf { data with windowHigh := 65536 } = false := by
  decide
theorem test_wf_recipeLists : RecipeData.wf { data with fractions := [100] } = false ∧
    RecipeData.wf { data with fractions := List.replicate 12 256 } = false ∧
    RecipeData.wf { data with correction := 32768 } = false ∧ RecipeData.wf { data with correction := -32769 } = false := by
  decide +kernel
theorem test_wf_setLearning : LearningSettings.wf ⟨true, 256, 0, 0⟩ = false ∧ LearningSettings.wf ⟨true, 0, 256, 0⟩ = false ∧
    LearningSettings.wf ⟨true, 0, 0, 256⟩ = false := by decide
theorem test_wf_setLine : Geometry.wf { geo with positions := 256 } = false ∧ Geometry.wf { geo with coils := [⟨256, 1, 50⟩] } = false ∧
    Geometry.wf { geo with coils := [⟨1, 256, 50⟩] } = false ∧ Geometry.wf { geo with coils := [⟨1, 2, 55⟩] } = false ∧
    Geometry.wf { geo with ratings := [2560] } = false ∧
    Geometry.wf { geo with coils := List.replicate 17 ⟨1, 2, 50⟩, ratings := [50, 50, 50] } = false := by decide +kernel
theorem test_wf_setReach : Instr.wf (.setReach .supervisor [⟨16, 1⟩]) = false ∧ Instr.wf (.setReach .supervisor [⟨1, 16⟩]) = false ∧
    Instr.wf (.setReach .supervisor (List.replicate 56 ⟨1, 1⟩)) = false := by decide +kernel
theorem test_wf_timerBytes : TimerSettings.wf { TimerSettings.default with slice := 256 } = false ∧
    TimerSettings.wf { TimerSettings.default with replyTimeout := 256 } = false ∧
    TimerSettings.wf { TimerSettings.default with lostThreshold := 256 } = false ∧
    TimerSettings.wf { TimerSettings.default with rejectLimit := 256 } = false ∧
    TimerSettings.wf { TimerSettings.default with pushTimeout := 256 } = false ∧
    TimerSettings.wf { TimerSettings.default with holdLimit := 256 } = false := by decide
theorem test_wf_timerWords : TimerSettings.wf { TimerSettings.default with pollPeriod := 65536 } = false ∧
    TimerSettings.wf { TimerSettings.default with retryDelay := 65536 } = false ∧
    TimerSettings.wf { TimerSettings.default with stopConfirm := 65536 } = false ∧
    TimerSettings.wf { TimerSettings.default with feedbackTimeout := 65536 } = false ∧
    TimerSettings.wf { TimerSettings.default with measureTimeout := 65536 } = false ∧
    TimerSettings.wf { TimerSettings.default with pressSilence := 65536 } = false := by decide
theorem test_wf_urgencyMap : BandClasses.wf ⟨256, 0, 0, 0⟩ = false ∧ BandClasses.wf ⟨0, 256, 0, 0⟩ = false ∧
    BandClasses.wf ⟨0, 0, 256, 0⟩ = false ∧ BandClasses.wf ⟨0, 0, 0, 256⟩ = false ∧
    UrgencyMap.wf { UrgencyMap.default with heating := ⟨256, 0, 0, 0⟩ } = false ∧
    UrgencyMap.wf { UrgencyMap.default with holding := ⟨256, 0, 0, 0⟩ } = false ∧
    UrgencyMap.wf { UrgencyMap.default with b1 := 256 } = false ∧ UrgencyMap.wf { UrgencyMap.default with b2 := 256 } = false ∧
    UrgencyMap.wf { UrgencyMap.default with b3 := 256 } = false := by decide
theorem test_wf_lineLimit : Instr.wf (.setLineLimit .supervisor 65536) = false ∧
    Instr.wf (.setLineLimitLong .supervisor 65536 LimitSettings.default) = false ∧
    LimitSettings.wf { LimitSettings.default with threshold := 65536 } = false ∧
    LimitSettings.wf { LimitSettings.default with window := 256 } = false ∧
    LimitSettings.wf { LimitSettings.default with lowMark := 256 } = false ∧
    LimitSettings.wf { LimitSettings.default with highMark := 256 } = false := by decide
theorem test_wf_coils : Instr.wf (.disableCoil .supervisor 256) = false ∧ Instr.wf (.enableCoil .supervisor 256) = false ∧
    Instr.wf (.clearChannel .supervisor 256) = false ∧ Instr.wf (.releaseLockout .supervisor ⟨16, 1⟩) = false ∧
    Instr.wf (.releaseLockout .supervisor ⟨1, 16⟩) = false := by decide
theorem test_wf_positions : Instr.wf (.soakRemainingZero 0) = false ∧ Instr.wf (.soakRemainingZero 33) = false ∧
    Instr.wf (.holdElapsedExceeded 0) = false ∧ Instr.wf (.holdElapsedExceeded 33) = false := by decide
theorem test_wf_feedback : Instr.wf (.feedbackClosed .u1 0) = false ∧ Instr.wf (.feedbackClosed .u1 13) = false ∧
    Instr.wf (.feedbackOpen .u1 13) = false ∧ Instr.wf (.feedbackTimeout .u1 0) = false := by decide
theorem test_wf_replies : Instr.wf (.accept 256) = false ∧ Instr.wf (.reject 256 .busy) = false ∧
    Instr.wf (.state 256 ⟨.on, 0, 0, none⟩) = false ∧ Instr.wf (.state 1 ⟨.on, 65536, 0, none⟩) = false ∧
    Instr.wf (.state 1 ⟨.on, 0, 65536, none⟩) = false ∧ Instr.wf (.state 1 ⟨.fault, 0, 0, some 65536⟩) = false := by decide
theorem test_wf_pyrometer : Instr.wf (.pyrometerReading .valid 2001) = false ∧ Instr.wf (.pyrometerBadFrame []) = false := by
  decide

/-! ## One step of each command -/

theorem test_decode_none : decodeTableWord 8 0 = none := rfl
theorem test_step_idles : step standby = .next standby := rfl
theorem test_hardwareReset : gives (.hardwareReset 2)
      { standby with loader := { standby.loader with store := .writing [0x10, 5, 6], eeprom := [⟨0, 9⟩] } }
      (fun t => decide (t.line = LineCtl.reset) && decide (t.loader.eeprom = [⟨0, 0⟩, ⟨1, 5⟩]) && decide (t.matrix = [])) = true := by
  decide +kernel
theorem test_lineStopAsserted : gives .lineStopAsserted run (fun t => decide (t.line.mode = .faultStop) &&
    t.line.stopCauses.lineStop && t.lines.lineStop) = true := by decide +kernel
theorem test_lineStopDeasserted : gives .lineStopDeasserted { run with lines := { run.lines with lineStop := true } }
    (fun t => decide (t.lines.lineStop = false) && decide (t.line.mode = .run)) = true := by decide +kernel
theorem test_loadFailed_absent : gives (.loadFailed (some 0)) State.reset
    (fun t => decide (t.line.mode = .unconfigured .absent) && decide (t.loader.load = .failed)) = true := by decide +kernel
theorem test_loadFailed_error : gives (.loadFailed none) State.reset
    (fun t => decide (t.line.mode = .unconfigured .loadError)) = true := by decide +kernel
theorem test_imageApplied_after_load : gives .imageApplied standby (fun t => decide (t = standby)) = true := by decide +kernel
theorem test_storeCompleteOk : gives .storeCompleteOk
      { standby with loader := { standby.loader with store := .writing [0x10, 5] } }
      (fun t => decide (t.loader.eeprom = [⟨0, 0x10⟩, ⟨1, 5⟩]) && decide (t.loader.result = .ok)) = true := by decide +kernel
theorem test_storeNoAck : gives (.storeNoAck 1)
      { standby with loader := { standby.loader with store := .writing [0x10, 5] } }
      (fun t => decide (t.loader.eeprom = [⟨0, 0⟩]) && decide (t.loader.result = .noAck)) = true := by decide +kernel
theorem test_requestTransaction : gives (.requestTransaction .supervisor [0x32, 0, 0x75]) run
      (fun t => decide (answer t .supervisor = some (.refused .badFrame)) || decide (t.line.mode = .hold .run)) = true := by
  decide +kernel
theorem test_requestTransaction_hold : gives (.requestTransaction .supervisor (frameOf 0x32 (.hold .supervisor))) run
      (fun t => decide (t.line.mode = .hold .run)) = true := by decide +kernel

def held : State :=
  withPort .press { PortRec.reset with state := .ready ⟨0x10, .refused .wrongMode⟩, overrun := true } standby

theorem test_fetch : gives (.fetch .press .whole) held (fun t => decide (t.ports.press.state = .idle) &&
    decide (t.ports.press.overrun = false) &&
    decide (t.ports.press.shifted.bind Shifted.response = some (.held ⟨0x10, .refused .wrongMode⟩))) = true := by decide +kernel
theorem test_fetch_partly : gives (.fetch .press .partly) held (fun t =>
    decide (t.ports.press.state = .ready ⟨0x10, .refused .wrongMode⟩)) = true := by decide +kernel
/-- The press port of `held` with a FETCH begun, MODE_CHANGED raised since. -/
def fetching : State :=
  withPort .press { held.ports.press with
    select := .selected 0x1A held.ports.press.state, flags := { EventSet.none with modeChanged := true } } held

theorem test_asserted : gives (.requestTransaction .press [] .asserted) held (fun t => decide (t =
    withPort .press { held.ports.press with select := .selected 0x1A (.ready ⟨0x10, .refused .wrongMode⟩) } held)) &&
    gives (.requestTransaction .press [] .asserted) fetching (fun t => decide (t = fetching)) = true := by decide +kernel

/-- The status byte is the one taken at the assertion, ATTN pending clear, though the record's has it set by then. -/
theorem test_fetch_latched : gives (.fetch .press .whole) fetching (fun t =>
    decide (fetching.ports.press.statusByte .press = 0x1E) && decide (t.ports.press.state = .idle) &&
    decide (t.ports.press.select = .released) &&
    decide (t.ports.press.shifted = some ⟨0x1A, some (.held ⟨0x10, .refused .wrongMode⟩)⟩)) = true := by decide +kernel

/-- The answer to START came after the assertion of the supervisor's chip select. -/
def answeredMeanwhile : State :=
  withPort .supervisor { PortRec.reset with state := .ready ⟨0x30, .accepted⟩, select := .selected 0x31 (.processing 0x30) } standby

theorem test_fetch_answeredMeanwhile : gives (.fetch .supervisor .whole) answeredMeanwhile (fun t =>
    decide (t.ports.supervisor.state = .ready ⟨0x30, .accepted⟩) &&
    decide (t.ports.supervisor.shifted = some ⟨0x31, some (.none 0x30)⟩)) = true := by decide +kernel

/-- The part was reset while the press port's chip select was asserted. -/
def resetMeanwhile : State := withPort .press { PortRec.reset with select := .ignored } standby

theorem test_ignored : gives (.hardwareReset 0) fetching (fun t =>
      decide (t.ports.press = { PortRec.reset with select := .ignored }) && decide (t.ports.feeder = PortRec.reset)) &&
    gives (.readLineStatus .press) resetMeanwhile (fun t => decide (t = standby)) &&
    gives (.requestTransaction .press [] (.selector 0xC3)) resetMeanwhile (fun t => decide (t = standby)) = true := by
  decide +kernel
theorem test_readLineStatus : gives (.readLineStatus .press) heating (fun t =>
    match answer t .press with
    | some (.data (.lineStatus x)) => decide (x.billets = 2) && decide (x.working = 1) && decide (x.mode = .run)
    | _ => false) = true := by decide +kernel
theorem test_readTrack : answers (.readTrack .press 3 1) heating .press (.data (.track true 8 none
    [{ position := 3, content := .billet (billet 3 .heating), coil := 1, demand := 1080 }])) = true := by decide +kernel
theorem test_readTrackField : answers (.readTrackField .press 1 7 2) heating .press
    (.data (.trackField true 1 [0, 1] [0, 9])) = true := by decide +kernel
theorem test_readOrders : gives (.readOrders .press) heating (fun t =>
    match answer t .press with
    | some (.data (.orders .free .free .short 1 3 1 2 3000 _ false false)) => true
    | _ => false) = true := by decide +kernel
theorem test_readHistory : answers (.readHistory .feeder 0) standby .feeder (.data (.history 0 0 [])) = true := by decide +kernel
theorem test_readHistory_range : answers (.readHistory .feeder 16) standby .feeder (.refused .outOfRange) = true := by
  decide +kernel
theorem test_ackEvents : gives (.ackEvents .press [1])
    (withPort .press { PortRec.reset with flags := { EventSet.none with modeChanged := true } } standby)
    (fun t => decide (t.ports.press.flags = EventSet.none)) = true := by decide +kernel
theorem test_setEventMask : gives (.setEventMask .press [1]) standby
      (fun t => decide (t.ports.press.mask = { EventSet.none with modeChanged := true })) = true := by decide +kernel
theorem test_demand : gives (.demand .press 7 60) run (fun t => decide (t.orders.a = .pending 7 1 (some 60)) &&
    t.push.cradleWait) = true := by decide +kernel
theorem test_demand_serves : gives (.demand .press 7 60) (withCradle (some ⟨5, 7, 0⟩) run) (fun t =>
    decide (t.orders.a = .serving 7 1 (some 60) 1) && decide (t.push.record = some ⟨1, .billet, .serve, some ⟨.a, 7⟩, some 5⟩))
    = true := by decide +kernel
theorem test_cancelOrder : gives (.cancelOrder .press 0) (withOrders (.pending 7 1 none) .free run)
    (fun t => decide (t.orders.a = .cancelled 7 1 .press)) = true := by decide +kernel
theorem test_releaseOrder : gives (.releaseOrder .press 0) (withOrders (.expired 7 1) (.pending 8 2 none) run)
    (fun t => decide (t.orders.a = .free) && decide (t.orders.b = .pending 8 1 none)) = true := by decide +kernel
theorem test_pressHold : gives (.pressHold .press) run (fun t => decide (t.line.mode = .hold .run) &&
    t.line.holdCauses.press) = true := by decide +kernel

def heldLine : State :=
  { inMode (.hold .run) run with line := { run.line with
      mode := .hold .run, holdCauses := ⟨true, false, false⟩, holdTimer := .running 1800 } }

theorem test_pressRun : gives (.pressRun .press) heldLine (fun t => decide (t.line.mode = .run)) = true := by decide +kernel
theorem test_loadBillet : gives (.loadBillet .feeder 5 7) standby (fun t => decide (t.track.cradle = some ⟨5, 7, 0⟩)) = true := by
  decide +kernel
theorem test_loadBillet_grade : answers (.loadBillet .feeder 5 8) standby .feeder (.refused .notFound) = true := by
  decide +kernel
theorem test_unloadCradle : gives (.unloadCradle .feeder) (withCradle (some ⟨5, 7, 0⟩) standby)
    (fun t => decide (t.track.cradle = none)) = true := by decide +kernel
theorem test_readPush : gives (.readPush .feeder) standby (fun t =>
    match answer t .feeder with
    | some (.data (.push none _ false false 0)) => true
    | _ => false) = true := by decide +kernel

def gapPush : PushRecord := ⟨3, .gap, .purge, none, none⟩

def billetPush : PushRecord := ⟨3, .billet, .serve, some ⟨.a, 7⟩, some 5⟩

/-- A SERVE push of the READY billet is in flight. -/
def pushing : State := withOrders (.serving 7 1 none 3) .free (withPush billetPush (withCradle (some ⟨5, 7, 0⟩) run))

theorem test_pushDone : gives (.pushDone .feeder 3) pushing (fun t =>
    decide (t.push.station = some ⟨readyBillet, ⟨.a, 7⟩, 3⟩) && decide (t.track.cradle = none) &&
    decide (t.track.slots = .billet { billet 5 .heating with charge := some 1 } :: loaded.dropLast)) = true := by decide +kernel
theorem test_pushDone_diverts : gives (.pushDone .feeder 3) (inMode .standby (withPush gapPush run)) (fun t =>
    decide (t.push.history = [⟨9, 7, 9, .diverted .unmeasured, none, none⟩]) && t.lines.divert) = true := by decide +kernel
theorem test_pushFaultNotStarted : gives (.pushFaultNotStarted .feeder 3) (inMode .faultStop pushing) (fun t =>
    decide (t.push.record = none) && decide (t.orders.a = .cancelled 7 1 .mode)) = true := by decide +kernel
theorem test_pushFaultIncomplete : gives (.pushFaultIncomplete .feeder 3) pushing (fun t =>
    decide (t.track.verified = false) && decide (t.line.mode = .faultStop) && decide (t.track.cradle = none)) = true := by
  decide +kernel
theorem test_start : gives (.start .supervisor) standby (fun t => decide (t.line.mode = .run)) = true := by decide +kernel
theorem test_start_discovers : gives (.start .supervisor)
    (withChannel .u2 { Channel.reset with state := .unreached } standby)
    (fun t => decide (t.ports.supervisor.state = .processing 0x30) &&
      decide (t.link.queue = [⟨.u2, .readState, .discovery⟩])) = true := by decide +kernel
theorem test_stop : gives (.stop .supervisor) heating (fun t => decide (t.line.mode = .stopping .standby) &&
    decide (t.channels.u1.state = .stopping) && decide (t.link.queue = [⟨.u1, .stopOutput, .control⟩])) = true := by
  decide +kernel
theorem test_hold : gives (.hold .supervisor) run (fun t => decide (t.line.mode = .hold .run)) = true := by decide +kernel
theorem test_resume : gives (.resume .supervisor) heldLine (fun t => decide (t.line = heldLine.line)) = true := by decide +kernel
theorem test_purge : gives (.purge .supervisor) (withSlots loaded standby) (fun t => decide (t.line.mode = .purge) &&
    decide (t.push.record = some ⟨1, .gap, .purge, none, none⟩)) = true := by decide +kernel
theorem test_abortPurge : gives (.abortPurge .supervisor) (inMode .purge (withSlots loaded standby))
    (fun t => decide (t.line.mode = .standby)) = true := by decide +kernel
theorem test_drain : gives (.drain .supervisor) run (fun t => decide (t.line.mode = .drain)) = true := by decide +kernel
theorem test_endDrain : gives (.endDrain .supervisor) (inMode .drain run) (fun t => decide (t.line.mode = .run)) = true := by
  decide +kernel
theorem test_resetFault : gives (.resetFault .supervisor) (inMode .faultStop standby)
    (fun t => decide (t.line.mode = .standby)) = true := by decide +kernel
theorem test_warmRestart : gives (.warmRestart .supervisor) run (fun t => decide (t.line.mode = .standby) &&
    decide (t.track.slots = List.replicate 8 .undeclared)) = true := by decide +kernel
theorem test_trackClear : gives (.trackClear .supervisor) (withSlots loaded standby)
    (fun t => decide (t.track.slots = gaps)) = true := by decide +kernel

def undeclared : State :=
  let s := withSlots (List.replicate 8 .undeclared) standby
  { s with track := { s.track with verified := false } }

theorem test_declareSlots : gives (.declareSlots .supervisor 2 [.gap, .billet 4 7]) undeclared (fun t =>
    decide (at1 t.track.slots 3 = some (.billet { billet 4 .heating with
      charge := none, target := none, suspect := some .declared })) && !t.track.verified) = true := by decide +kernel
theorem test_declareSlots_charges : gives (.declareSlots .supervisor 8 [.billet 4 7])
    { undeclared with track := { undeclared.track with slots := List.replicate 7 .gap ++ [.undeclared] } } (fun t =>
    decide (at1 t.track.slots 8 = some (.billet { billet 4 .heating with
      charge := some 1, suspect := some .declared })) && t.track.verified) = true := by decide +kernel
theorem test_markReject : gives (.markReject .supervisor 3 3) (withSlots loaded standby) (fun t =>
    decide (at1 t.track.slots 3 = some (.billet { billet 3 .heating with reject := true }))) = true := by decide +kernel
theorem test_clearSuspect : gives (.clearSuspect .supervisor 3 3)
    (withSlots (loaded.set 2 (.billet { billet 3 .heating with suspect := some .declared })) standby)
    (fun t => decide (t.track.slots = loaded)) = true := by decide +kernel
theorem test_writeRecipe : gives (.writeRecipe .supervisor 47 { data with grade := 8, correction := -80 } false) standby (fun t =>
    decide (t.recipes.entries[47]? = some ⟨.modified, { data with grade := 8, correction := -80 }⟩)) = true := by decide +kernel
theorem test_writeRecipe_grade : answers (.writeRecipe .supervisor 1 data false) standby .supervisor (.refused .duplicate)
    = true := by decide +kernel
theorem test_deleteRecipe : gives (.deleteRecipe .supervisor 0) standby (fun t =>
    decide (t.recipes.entries = List.replicate 48 Recipe.empty)) = true := by decide +kernel
theorem test_readRecipe : answers (.readRecipe .supervisor 0) run .supervisor
    (.data (.recipe 0 ⟨.stored, data⟩ 2 1800 LearningSettings.default)) = true := by decide +kernel
theorem test_setLearning : gives (.setLearning .supervisor ⟨true, 5, 10, 4⟩)
    { standby with recipes := { standby.recipes with
        entries := standby.recipes.entries.set 0 ⟨.stored, { data with correction := -30 }⟩ } }
    (fun t => decide (t.recipes.entries[0]? = some ⟨.stored, { data with correction := -4 }⟩)) = true := by decide +kernel
theorem test_setLine : gives (.setLine .supervisor { geo with positions := 9, ratings := [300] }) standby (fun t =>
    decide (t.track.slots = List.replicate 9 .gap) && decide (t.channels.u2 = Channel.reset) &&
    decide (t.matrix = [open_ .u1 1, open_ .u1 2])) = true := by decide +kernel
theorem test_setReach : gives (.setReach .supervisor [⟨1, 1⟩, ⟨2, 1⟩]) standby (fun t =>
    decide (t.matrix = [open_ .u1 1, open_ .u2 1])) = true := by decide +kernel
theorem test_setTimers : gives (.setTimers .supervisor { TimerSettings.default with slice := 120 }) standby (fun t =>
    decide (t.settings.timers.slice = 120)) = true := by decide +kernel
theorem test_setUrgencyMap : gives (.setUrgencyMap .supervisor { UrgencyMap.default with b3 := 31 }) standby (fun t =>
    decide (t.settings.urgency.b3 = 31)) = true := by decide +kernel
theorem test_setLineLimit : gives (.setLineLimit .supervisor 200) heating (fun t =>
    decide (t.alloc.pendingLimit = some 200) && decide (t.channels.u1.commanded = some 200) &&
    decide (t.link.queue = [⟨.u1, .setOutput 200, .control⟩])) = true := by decide +kernel
theorem test_setLineLimitLong : gives (.setLineLimitLong .supervisor 8000 { LimitSettings.default with autoPurge := true })
    standby (fun t => decide (t.alloc.effective = 8000) && t.settings.limits.autoPurge) = true := by decide +kernel
theorem test_disableCoil : gives (.disableCoil .supervisor 2) standby (fun t =>
    decide ((t.coil 2).map Coil.state = some .disabled)) = true := by decide +kernel
theorem test_enableCoil : gives (.enableCoil .supervisor 2)
    { standby with alloc := { standby.alloc with coils := standby.alloc.coils.set 1 ⟨.disabled, true, 0, none⟩ } }
    (fun t => decide (t.coil 2 = some ⟨.unpowered, false, 0, none⟩)) = true := by decide +kernel
theorem test_clearChannel : gives (.clearChannel .supervisor 1)
    (withChannel .u1 { idleChannel with state := .faulted .rejected } standby) (fun t => t.channels.u1.clearing &&
    decide (t.link.queue = [⟨.u1, .clearFault, .clear⟩])) = true := by decide +kernel

def failedOpen : State := { standby with matrix := [{ open_ .u1 1 with state := .failOpen }, open_ .u1 2, open_ .u2 2] }

def welded : State :=
  { withChannel .u1 { idleChannel with state := .locked .idle } standby with
    matrix := [{ open_ .u1 1 with state := .failClosed }, open_ .u1 2, open_ .u2 2]
    alloc := { standby.alloc with coils := standby.alloc.coils.set 0 ⟨.locked, false, 0, none⟩ } }

theorem test_releaseLockout : gives (.releaseLockout .supervisor ⟨1, 1⟩) welded (fun t =>
    decide (t.matrix = standby.matrix) && decide (t.channels.u1.state = .idle) &&
    decide (t.alloc.coils = standby.alloc.coils)) = true := by decide +kernel
theorem test_readCoils : gives (.readCoils .supervisor) heating (fun t =>
    match answer t .supervisor with
    | some (.data (.coils 1000 0 false 300 700 50 rs)) => decide (rs.map CoilReport.leadPosition = [3, 0])
    | _ => false) = true := by decide +kernel
theorem test_readChannels : gives (.readChannels .supervisor) heating (fun t =>
    match answer t .supervisor with
    | some (.data (.channels cs xs)) => decide (cs = heating.channels) && decide (xs.map CrosspointReport.feedback = [true, false, false])
    | _ => false) = true := by decide +kernel
theorem test_readQueues : gives (.readQueues .supervisor) heating (fun t =>
    match answer t .supervisor with
    | some (.data (.queues [] [] [] [] gs)) => decide (gs.map GrantReport.setpoint = [300])
    | _ => false) = true := by decide +kernel
theorem test_storeConfig : gives (.storeConfig .supervisor) standby (fun t =>
    match t.loader.store with
    | .writing image => decide (image.take 1 = [0x10])
    | _ => false) = true := by decide +kernel

/-- Soaking, READY at its maximum hold, and an order about to expire. -/
def aging : State :=
  withOrders (.pending 7 1 (some 1)) .free
    (withSlots (loaded.set 2 (.billet (billet 3 (.soaking 1))) |>.set 7 (.billet (billet 9 (.ready 60)))) standby)

theorem test_lineSecond : gives .lineSecond aging (fun t => decide (t.orders.a = .expired 7 1) &&
    decide (at1 t.track.slots 3 = some (.billet { billet 3 (.ready 0) with loss := 4 })) &&
    decide (at1 t.track.slots 8 = some (.billet { billet 9 (.overheld 61) with loss := 4 }))) = true := by decide +kernel
theorem test_soakRemainingZero : gives (.soakRemainingZero 3) aging (fun t =>
    decide (at1 t.track.slots 3 = some (.billet { billet 3 (.ready 0) with loss := 4 }))) = true := by decide +kernel
theorem test_holdElapsedExceeded : gives (.holdElapsedExceeded 8) aging (fun t =>
    decide (at1 t.track.slots 8 = some (.billet { billet 9 (.overheld 61) with loss := 4 }))) = true := by decide +kernel
theorem test_orderDeadlineExpiry : gives (.orderDeadlineExpiry .a) aging (fun t => decide (t.orders.a = .expired 7 1)) = true := by
  decide +kernel

/-- C2 waits with a class of its own while U1 heats C1; only U1 is in service. -/
def challenged : State :=
  { withChannel .u2 Channel.reset (withSlots (loaded.set 6 (.billet (billet 4 .heating))) heating) with
    alloc := { heating.alloc with
      coils := heating.alloc.coils.set 1 ⟨.queued 3, false, 1800, some ⟨7, .heating⟩⟩, queues := ⟨[], [], [], [2]⟩ } }

theorem test_sliceExpiry : gives (.sliceExpiry .u1) challenged (fun t => decide (t.channels.u1.state = .stopping) &&
    decide (t.alloc.grants.u1 = some ⟨1, 1, true⟩)) = true := by decide +kernel
theorem test_sliceExpiry_renews : gives (.sliceExpiry .u1) heating (fun t => decide (t = heating)) = true := by decide +kernel
theorem test_pollPeriodExpiry : gives .pollPeriodExpiry heating (fun t => decide (t.link.pollDue = ⟨true, false, false, false⟩))
    = true := by decide +kernel
theorem test_replyTimeout : gives .replyTimeout (inFlight ⟨.u1, .readState, .poll⟩ heating) (fun t =>
    decide (t.channels.u1.timeouts = 1) && decide (t.link.quiet = .running 20)) = true := by decide +kernel
theorem test_quietIntervalEnd : gives .quietIntervalEnd { standby with link := { standby.link with quiet := .running 20 } }
    (fun t => decide (t = standby)) = true := by decide +kernel
theorem test_retryDelayExpiry : gives (.retryDelayExpiry .u1)
    (withChannel .u1 { heating.channels.u1 with commanded := some 200, retry := some ⟨.setOutput 200, 100⟩ } heating)
    (fun t => decide (t.link.queue = [⟨.u1, .setOutput 200, .control⟩]) && decide (t.channels.u1.retry = none)) = true := by
  decide +kernel

/-- A SET_OUTPUT of 200 kW is in flight after three rejects and two timeouts. -/
def lastTry : State :=
  inFlight ⟨.u1, .setOutput 200, .control⟩
    (withChannel .u1 { heating.channels.u1 with commanded := some 200, rejects := 3, timeouts := 2, sent := true } heating)

theorem test_rejectLimitReached : gives (.rejectLimitReached .u1) lastTry (fun t => decide (t.channels.u1.state = .stopping) &&
    decide (t.channels.u1.pendingCause = some .rejected)) = true := by decide +kernel
theorem test_channelLost : gives (.channelLost .u1) lastTry (fun t => decide (t.channels.u1.state = .opening) &&
    decide (t.channels.u1.pendingCause = some .linkLost) &&
    decide (at1 t.track.slots 3 = some (.billet { billet 3 .heating with suspect := some .energyUnknown }))) = true := by
  decide +kernel

/-- U1 stops. -/
def stopping : State :=
  withChannel .u1 { heating.channels.u1 with state := .stopping, stopConfirm := .running 2000 }
    { heating with alloc := { heating.alloc with grants := ⟨some ⟨1, 1, true⟩, none, none, none⟩ } }

theorem test_stopConfirmExpiry : gives (.stopConfirmExpiry .u1) stopping (fun t =>
    decide (t.channels.u1.state = .faulted .noStop) && decide (t.line.mode = .faultStop)) = true := by decide +kernel

/-- U1 closes its crosspoint to C1. -/
def closing : State :=
  withChannel .u1 { heating.channels.u1 with state := .closing, accepted := 0 }
    { heating with
      matrix := [{ open_ .u1 1 with drive := true, state := .closing, timer := .running 150 }, open_ .u1 2, open_ .u2 2]
      lines := standby.lines
      alloc := { heating.alloc with slice := PerInv.all .stopped } }

/-- U1 opens its crosspoint to C1, outside heating. -/
def opening : State :=
  withChannel .u1 { heating.channels.u1 with state := .opening }
    { inMode .standby heating with
      matrix := [{ open_ .u1 1 with state := .opening, timer := .running 150 }, open_ .u1 2, open_ .u2 2]
      alloc := { heating.alloc with grants := ⟨some ⟨1, 1, true⟩, none, none, none⟩, slice := PerInv.all .stopped } }

theorem test_feedbackTimeout : gives (.feedbackTimeout .u1 1) closing (fun t =>
    decide ((t.crosspoint .u1 1).map Crosspoint.state = some .failOpen)) = true := by decide +kernel
theorem test_feedbackTimeout_welds : gives (.feedbackTimeout .u1 1) opening (fun t =>
    decide ((t.crosspoint .u1 1).map Crosspoint.state = some .failClosed) &&
    decide (t.channels.u1.state = .locked .idle) && decide ((t.coil 1).map Coil.state = some .locked)) = true := by decide +kernel
theorem test_discoveryHoldbackExpiry : gives (.discoveryHoldbackExpiry .u1)
    { standby with link := { standby.link with
        holdback := standby.link.holdback.set .u1 (.running 2000), discovery := standby.link.discovery.set .u1 .wanted } }
    (fun t => decide (t.link.queue = [⟨.u1, .readState, .discovery⟩])) = true := by decide +kernel
theorem test_pushTimeout : gives .pushTimeout pushing (fun t => decide (t.push.late = 3) &&
    decide (t.track.slots = List.replicate 8 .undeclared) && t.line.stopCauses.pushTimeout) = true := by decide +kernel

/-- The READY billet is being measured. -/
def measuring : State :=
  { withOrders (.serving 7 1 none 3) .free (withSlots gaps run) with
    push := { PushCtl.reset with station := some ⟨readyBillet, ⟨.a, 7⟩, 3⟩, measureTimer := .running 500 } }

theorem test_measureTimeout : gives .measureTimeout measuring (fun t =>
    decide (t.push.history = [⟨9, 7, 9, .diverted .unmeasured, none, some 7⟩])) = true := by decide +kernel
theorem test_pressSilenceExpiry : gives .pressSilenceExpiry run (fun t => decide (t.line.mode = .hold .run) &&
    t.line.holdCauses.silent) = true := by decide +kernel
theorem test_holdLimitExpiry : gives .holdLimitExpiry heldLine (fun t => decide (t.line.holdTimer = .stopped) &&
    t.ports.supervisor.flags.holdLimit) = true := by decide +kernel
theorem test_holdLimitExpiry_purges : gives .holdLimitExpiry { heldLine with settings := { heldLine.settings with
      limits := { heldLine.settings.limits with autoPurge := true } } } (fun t => decide (t.line.mode = .purge)) = true := by
  decide +kernel
theorem test_feedbackClosed : gives (.feedbackClosed .u1 1) closing (fun t => decide (t.channels.u1.state = .starting) &&
    decide (t.link.queue = [⟨.u1, .setOutput 300, .control⟩])) = true := by decide +kernel
theorem test_feedbackOpen : gives (.feedbackOpen .u1 1) opening (fun t => decide (t.channels.u1.state = .idle) &&
    decide (t.matrix = standby.matrix)) = true := by decide +kernel

def queued (x : LinkEntry) (s : State) : State := { s with link := { s.link with queue := [x] } }

theorem test_sendNextTransaction : gives .sendNextTransaction (queued ⟨.u1, .setOutput 200, .control⟩ heating) (fun t =>
    decide (t.link.inFlight.map Transaction.entry = some ⟨.u1, .setOutput 200, .control⟩) && t.channels.u1.sent) = true := by
  decide +kernel
theorem test_accept : gives (.accept 1) lastTry (fun t => decide (t.channels.u1.accepted = 200) &&
    decide (t.channels.u1.commanded = none)) = true := by decide +kernel
theorem test_reject : gives (.reject 1 .busy) (withChannel .u1 { lastTry.channels.u1 with rejects := 0 } lastTry) (fun t =>
    decide (t.channels.u1.retry = some ⟨.setOutput 200, 100⟩)) = true := by decide +kernel
theorem test_state : gives (.state 1 ⟨.on, 400, 300, none⟩) (inFlight ⟨.u1, .readState, .poll⟩ heating) (fun t =>
    decide (t.track.slots = loaded.set 2 (.billet { billet 3 .heating with delivered := 300 }))) = true := by decide +kernel
theorem test_state_off : gives (.state 1 ⟨.off, 100, 0, none⟩) (inFlight ⟨.u1, .readState, .poll⟩ stopping) (fun t =>
    decide (t.channels.u1.state = .opening) && decide ((t.crosspoint .u1 1).map Crosspoint.drive = some false)) = true := by
  decide +kernel
theorem test_badReply : gives (.badReply [1, 0x81, 0, 0, 0]) (inFlight ⟨.u1, .readState, .poll⟩ heating) (fun t =>
    decide (t.channels.u1.timeouts = 1)) = true := by decide +kernel
theorem test_strayReply : gives (.strayReply [2, 0x81, 0, 0, 0]) (inFlight ⟨.u1, .readState, .poll⟩ heating) (fun t =>
    decide (t = inFlight ⟨.u1, .readState, .poll⟩ heating)) = true := by decide +kernel
theorem test_unsolicitedReply : gives (.unsolicitedReply [1, 0x81, 0, 0, 0]) heating (fun t => decide (t = heating)) = true := by
  decide +kernel
theorem test_pyrometerReading : gives (.pyrometerReading .valid 1000) measuring (fun t =>
    decide (t.push.history = [⟨9, 7, 9, .delivered, some 1000, some 7⟩]) && decide (t.lines.divert = false) &&
    decide (t.orders.a = .filled 7 1 ⟨9, 7, 9, 3, some 1000⟩)) = true := by decide +kernel
theorem test_pyrometerBadFrame : gives (.pyrometerBadFrame [⟨0, false⟩, ⟨0xA5, false⟩, ⟨1, false⟩, ⟨2, false⟩]) measuring
    (fun t => decide (t.lines.pyro = [⟨0xA5, false⟩, ⟨1, false⟩, ⟨2, false⟩]) && decide (t.push = measuring.push)) = true := by
  decide +kernel
theorem test_pyrometerCharacterGap : gives .pyrometerCharacterGap
    { standby with lines := { standby.lines with pyro := [⟨0xA5, false⟩] } } (fun t => decide (t = standby)) = true := by
  decide +kernel
theorem test_lineSecond_runs : gives .lineSecond standby (fun _ => true) = true := by decide +kernel

/-! ## Every statement's hypotheses are met -/

theorem next_of_gives {c : Instr} {s : State} {p : State → Bool} (h : gives c s p = true) :
    ∃ t, exec c s = .next t ∧ p t = true := by
  unfold gives at h
  cases hx : exec c s with
  | next t => exact ⟨t, rfl, by rw [hx] at h; exact h⟩
  | fault _ => simp [hx] at h
  | refused _ => simp [hx] at h

def oneWaits : State := { standby with pending := [.lineSecond, .start .supervisor] }

theorem test_hyp_StepTakesFrontCommand : oneWaits.pending = .lineSecond :: [.start .supervisor] ∧ standby.pending = [] :=
  ⟨rfl, rfl⟩

theorem test_hyp_ConfigurationChangesByItsCommandsAlone : (∃ t, exec .lineSecond standby = .next t) ∧
    wide .lineSecond = false ∧ writesRecipes .lineSecond = false ∧ writesSettings .lineSecond = false ∧
    writesLoader .lineSecond = false ∧ writesGeometry .lineSecond = false ∧ takesFree .lineSecond = false ∧
    movesPyro .lineSecond = false ∧ movesLineStop .lineSecond = false ∧ movesFeedback .lineSecond = false := by
  refine ⟨?_, ?_⟩
  · obtain ⟨t, h, _⟩ := next_of_gives test_lineSecond_runs
    exact ⟨t, h⟩
  · decide

def storing : State := { standby with loader := { standby.loader with store := .writing [0x10, 5] } }

theorem test_hyp_HardwareReset : standby.loader.store = .idle ∧ storing.loader.store = .writing [0x10, 5] := ⟨rfl, rfl⟩

/-- The geometry of the line above meets the range check. -/
theorem geometryLawful_of_geo {s : State} (h : s.track.geometry = some geo) : GeometryLawful s := by
  intro g hg
  rw [h] at hg
  cases hg
  unfold GeometryOk RatingOk
  decide +kernel

theorem test_hyp_EepromStaysCanonical : Memory.wf storing.loader.eeprom = true ∧ GeometryLawful storing ∧
    ∃ t, step { storing with pending := [.storeCompleteOk] } = .next t := by
  refine ⟨by decide +kernel, geometryLawful_of_geo rfl, ?_⟩
  obtain ⟨t, h, _⟩ := next_of_gives test_storeCompleteOk
  exact ⟨t, h⟩

theorem test_hyp_LineItemsFollowTheMode : (LineItems heldLine ∧ BeforeLoad heldLine) ∧
    ∃ t, step { heldLine with pending := [.holdLimitExpiry] } = .next t := by
  refine ⟨⟨⟨by decide, fun _ => ⟨.run, rfl⟩, fun h => absurd rfl h, fun h => absurd h (by decide)⟩, ?_⟩, ?_⟩
  · unfold BeforeLoad; decide +kernel
  · obtain ⟨t, h, _⟩ := next_of_gives test_holdLimitExpiry
    exact ⟨t, h⟩

theorem test_hyp_DrivesStayLawful : DrivesLawful heating ∧
    ∃ t, step { heating with pending := [.sliceExpiry .u1] } = .next t := by
  refine ⟨?_, ?_⟩
  · unfold DrivesLawful; decide +kernel
  · obtain ⟨t, h, _⟩ := next_of_gives test_sliceExpiry_renews
    exact ⟨t, h⟩

theorem test_hyp_QueuesMatchCoilStates : QueuesLawful challenged ∧
    ∃ t, step { challenged with pending := [.sliceExpiry .u1] } = .next t := by
  refine ⟨⟨?_, ?_, by decide +kernel, by decide +kernel, fun h => absurd h (by decide)⟩, ?_⟩
  · intro k hk
    match k, hk with
    | 0, _ | 1, _ | 2, _ | 3, _ =>
      refine ⟨by decide +kernel, fun j => ?_⟩
      match j with
      | 0 | 1 | 2 => decide +kernel
      | n + 3 => simp [challenged, heating, withChannel, State.coil, at1, Queues.get, standby]
  · intro j k h
    match j, h with
    | 0, h | 1, h => exact absurd h (by simp [challenged, heating, withChannel, State.coil, at1, standby])
    | 2, h => cases h; decide +kernel
    | n + 3, h => exact absurd h (by simp [challenged, heating, withChannel, State.coil, at1, standby])
  · obtain ⟨t, h, _⟩ := next_of_gives test_sliceExpiry
    exact ⟨t, h⟩

theorem test_hyp_RequestFramesDecode : requestOf (.demand .press 255 600) = some (.press, 0x10) ∧
    Instr.wf (.demand .press 255 600) = true := by decide

theorem test_hyp_RefusedRequest : requestOf (.drain .supervisor) = some (.supervisor, 0x36) ∧
    Idle standby .supervisor ∧ ∃ t, exec (.drain .supervisor) standby = .next t ∧
      (t.ports.get .supervisor).state = .ready ⟨0x36, .refused .wrongMode⟩ := by
  refine ⟨rfl, ⟨rfl, nofun⟩, ?_⟩
  obtain ⟨t, h, hp⟩ := next_of_gives (c := .drain .supervisor) (s := standby)
    (p := fun t => decide ((t.ports.get .supervisor).state = .ready ⟨0x36, .refused .wrongMode⟩)) (by decide +kernel)
  exact ⟨t, h, of_decide_eq_true hp⟩

theorem test_hyp_BusyPortOverruns : requestOf (.demand .press 7 0) = some (.press, 0x10) ∧ Busy held .press ∧
    held.ports.press.overrun = true ∧ Heeded standby .press ∧
    SelectLawful fetching ∧ ∃ t, step { fetching with pending := [.fetch .press .whole] } = .next t := by
  refine ⟨rfl, ⟨nofun, nofun⟩, rfl, nofun, ?_, ?_⟩
  · intro p b st h
    cases p
    · cases h; decide
    · cases h
    · cases h
  · obtain ⟨t, h, _⟩ := next_of_gives test_fetch_latched
    exact ⟨t, h⟩

theorem test_hyp_PortChecksRefuse : (Idle standby .press ∧ requestOf (.start .press) = some (.press, 0x30) ∧
      Port.press ∉ senders (.start .press)) ∧
    frameOk [] = false ∧ frameOk [0x77, 0, byteOf (crc8 [0x77, 0])] = true ∧
    frameOk ([0x77, 56] ++ List.replicate 56 1 ++ [byteOf (crc8 ([0x77, 56] ++ List.replicate 56 1))]) = true ∧
    frameOk ([0x77, 57] ++ List.replicate 57 1 ++ [byteOf (crc8 ([0x77, 57] ++ List.replicate 57 1))]) = false := by
  unfold Idle; decide +kernel

theorem test_hyp_PortChecksRefuse_unknown : ∀ c q, requestOf c ≠ some (q, (0x77 : Byte)) := by
  intro c q
  cases c <;> simp [requestOf]

theorem test_hyp_FetchShiftsTheHeldResponse : (taken standby .press).2 = .idle ∧ FetchExtent.partly ≠ .noStatus ∧
    (taken fetching .press).2 = .ready ⟨0x10, .refused .wrongMode⟩ ∧ (taken answeredMeanwhile .supervisor).2 = .processing 0x30 ∧
    Heeded fetching .press ∧ ¬ Heeded resetMeanwhile .press ∧ standby.ports.press.select = .released := by
  decide

theorem test_hyp_Coils : heating.coilRange 1 = some ⟨1, 4, 400⟩ ∧ heating.coilBillets 1 ≠ [] ∧
    heating.coilRange 2 = some ⟨5, 7, 300⟩ ∧ heating.coilBillets 2 = [] := by decide +kernel

theorem test_hyp_HistoryRead : Idle standby .press ∧ 15 < 16 ∧ 15 ≤ 15 ∧ State.reset.line.mode = .loading ∧
    Idle State.reset .press ∧ standby.line.mode ≠ .loading := by unfold Idle; decide

theorem test_hyp_StatusTrackOrderAndPushReads : Idle heating .press ∧ Idle heating .feeder ∧
    heating.track.geometry = some geo ∧ heating.track.slots.length = geo.positions ∧ 1 ≤ 7 ∧ 1 ≤ 2 ∧
    7 + 2 ≤ geo.positions + 1 ∧ 2 ≤ 2 ∧ 1 ≤ 13 ∧ heating.line.mode ≠ .loading ∧ Idle State.reset .press ∧
    Idle State.reset .feeder ∧ State.reset.line.mode = .loading ∧ State.reset.track.geometry = none := by
  unfold Idle; decide +kernel

theorem test_hyp_SupervisorReads : Idle heating .supervisor ∧ heating.line.mode ≠ .loading ∧
    heating.recipes.entries[47]? = some Recipe.empty ∧ heating.recipes.entries[0]? = some ⟨.stored, data⟩ ∧
    at1 heating.alloc.coils 1 = some ⟨.assigned .u1, false, 1080, some ⟨3, .heating⟩⟩ := by
  unfold Idle; decide +kernel

theorem test_hyp_Events : Idle standby .press ∧ kindOfCode .press 0 = none ∧ kindOfCode .press 1 ≠ none ∧
    kindOfCode .press 3 ≠ none ∧ kindOfCode .press 4 = none := by unfold Idle; decide

def bothTaken : State := withOrders (.expired 1 1) (.pending 2 2 none) run

theorem test_hyp_OrdersAreTakenAndCancelled :
    (Idle run .press ∧ 255 < 256 ∧ 600 < 601 ∧ 255 ≤ 255 ∧ 600 ≤ 600 ∧ run.line.mode = .run ∧ run.orders.a = .free ∧
      run.orders.b = .free) ∧
    (Idle standby .press ∧ standby.line.mode ≠ .run ∧ standby.line.mode ≠ .drain) ∧
    (Idle aging .press ∧ (inMode .run aging).line.mode = .run ∧ aging.orders.a ≠ .free ∧ aging.orders.b = .free) ∧
    (Idle pushing .press ∧ pushing.orders.get .a = .serving 7 1 none 3) ∧
    (Idle bothTaken .press ∧ bothTaken.orders.a ≠ .free ∧ bothTaken.orders.b ≠ .free ∧
      bothTaken.orders.get .b = .pending 2 2 none ∧ (bothTaken.orders.get .a).isPending = false) ∧
    (Idle State.reset .press ∧ State.reset.line.mode = .loading) ∧ 1 < 2 ∧ slotCode .a = 0 ∧ slotCode .b = 1 := by
  unfold Idle; decide +kernel

theorem test_hyp_ReleaseOrder : Idle aging .press ∧ 1 < 2 ∧ slotCode .b = 1 ∧ aging.line.mode ≠ .loading ∧
    (withOrders (.expired 1 1) .free run).orders.get .a = .expired 1 1 ∧
    (withOrders (.filled 1 1 ⟨9, 7, 9, 3, none⟩) .free run).orders.get .a = .filled 1 1 ⟨9, 7, 9, 3, none⟩ ∧
    (withOrders (.cancelled 1 1 .mode) .free run).orders.get .a = .cancelled 1 1 .mode := by
  unfold Idle; decide

theorem test_hyp_HoldCauses :
    (holdRequest (.hold .supervisor) = some (.supervisor, 0x32, .supervisor) ∧ Idle run .supervisor ∧
      run.line.mode = .run ∧ run.lines.lineStop = false) ∧
    (Idle State.reset .supervisor ∧ State.reset.line.mode.noLine = true) ∧
    (standby.line.mode.noLine = false ∧ standby.line.mode ≠ .run ∧ standby.line.mode ≠ .drain) ∧
    (runRequest (.pressRun .press) = some (.press, 0x14, [.press, .silent]) ∧ Idle heldLine .press ∧
      heldLine.line.mode = .hold .run ∧ heldLine.line.holdCauses ≠ noCause ∧
      without heldLine.line.holdCauses [.press, .silent] = noCause ∧ heldLine.lines.lineStop = false) ∧
    (runRequest (.resume .supervisor) = some (.supervisor, 0x33, [.supervisor]) ∧
      without heldLine.line.holdCauses [.supervisor] ≠ noCause) ∧
    (inMode (.hold .drain) heldLine).line.mode = .hold .drain ∧ 0 < (inMode (.hold .drain) heldLine).billets := by
  unfold Idle; decide +kernel

theorem test_hyp_CradleLoads : LoadCheck standby 1 7 (.ok 0) ∧ LoadCheck standby 4294967295 7 (.ok 0) ∧
    LoadCheck standby 0 7 (.error .outOfRange) ∧ LoadCheck standby 1 65535 (.error .outOfRange) ∧
    LoadCheck (inMode .purge standby) 1 7 (.error .wrongMode) ∧ LoadCheck pushing 1 7 (.error .busy) ∧
    LoadCheck (withCradle (some ⟨5, 7, 0⟩) standby) 1 7 (.error .noSlot) := by
  have hg : GradeAt standby 7 0 ⟨.stored, data⟩ := ⟨rfl, by decide, rfl, fun k _ hk => absurd hk (by omega)⟩
  have hi : ∀ id, ¬ IdInTrack standby id := fun id ⟨b, hb, _⟩ => absurd hb (by
    simp [standby, gaps])
  have hp : ¬ BilletPush standby := fun ⟨r, h, _⟩ => by cases h
  refine ⟨?_, ?_, ?_, ?_, ?_, ?_, ?_⟩
  · exact .passed 0 _ (by decide) (by decide) (by decide) (by decide) rfl hp rfl (hi _) hg (by decide)
  · exact .passed 0 _ (by decide) (by decide) (by decide) (by decide) rfl hp rfl (hi _) hg (by decide)
  · exact .range (.inl rfl)
  · exact .range (.inr (.inr (.inr (by decide))))
  · exact .mode (by decide) (by decide) (by decide) (by decide) rfl
  · exact .busy (by decide) (by decide) (by decide) (by decide) rfl ⟨billetPush, rfl, rfl⟩
  · exact .full (by decide) (by decide) (by decide) (by decide) rfl (fun ⟨r, h, _⟩ => by cases h) (by decide)

theorem test_hyp_CradleLoads_last : LoadCheck (withSlots loaded standby) 3 7 (.error .duplicate) ∧
    LoadCheck standby 1 8 (.error .notFound) ∧
    LoadCheck { standby with recipes := { standby.recipes with entries := standby.recipes.entries.set 0 ⟨.invalid, data⟩ } }
      1 7 (.error .notUsable) := by
  refine ⟨?_, ?_, ?_⟩
  · exact .duplicate (by decide) (by decide) (by decide) (by decide) rfl (fun ⟨r, h, _⟩ => by cases h) rfl
      ⟨billet 3 .heating, by decide, rfl⟩
  · refine .notFound (by decide) (by decide) (by decide) (by decide) rfl (fun ⟨r, h, _⟩ => by cases h) rfl ?_ ?_
    · exact fun ⟨b, hb, _⟩ => absurd hb (by simp [standby, gaps])
    · unfold NoGrade; decide +kernel
  · refine .notUsable 0 ⟨.invalid, data⟩ (by decide) (by decide) (by decide) (by decide) rfl
      (fun ⟨r, h, _⟩ => by cases h) rfl ?_ ⟨rfl, by decide, rfl, fun k _ hk => absurd hk (by omega)⟩ rfl
    exact fun ⟨b, hb, _⟩ => absurd hb (by simp [standby, gaps])

theorem test_hyp_CradleUnloads : Idle pushing .feeder ∧ BilletPush pushing ∧
    (Idle standby .feeder ∧ standby.line.mode.noLine = false ∧ standby.track.cradle = none) ∧
    (let s := withCradle (some ⟨5, 7, 0⟩) (inMode .drain standby)
     s.line.mode.noLine = false ∧ s.track.cradle ≠ none ∧ s.line.restartMark = false ∧ s.billets = 0 ∧
       s.lines.lineStop = false ∧ s.anyWorking = false) ∧ State.reset.line.mode.noLine = true := by
  refine ⟨⟨rfl, nofun⟩, ⟨billetPush, rfl, rfl⟩, ?_⟩
  unfold Idle; decide +kernel

/-- The push in flight, with the records of its possible leavers. -/
def leaving (th : Thermal) (m : Mode) : State :=
  inMode m (withSlots (loaded.set 7 (.billet (billet 9 th))) pushing)

theorem test_hyp_PushDone : (Idle pushing .feeder ∧ pushing.push.record = some billetPush ∧ 1 ≤ billetPush.number ∧
      billetPush.number ≤ 255 ∧ pushing.push.station = none ∧ pushing.line.restartMark = false ∧
      pushing.lines.lineStop = false) ∧
    stationAct pushing.track.slots.getLast? billetPush.served .run = .measure readyBillet ⟨.a, 7⟩ ∧
    stationAct (leaving (.ready 0) .faultStop).track.slots.getLast? billetPush.served .faultStop
      = .divert (billet 9 (.ready 0)) .lineFault ∧
    stationAct (leaving (.overheld 61) .run).track.slots.getLast? billetPush.served .run
      = .divert (billet 9 (.overheld 61)) .rejectBound ∧
    stationAct (leaving .heating .run).track.slots.getLast? billetPush.served .run
      = .divert (billet 9 .heating) .underheated ∧
    stationAct (leaving (.ready 0) .run).track.slots.getLast? none .run = .divert (billet 9 (.ready 0)) .unmeasured ∧
    stationAct gaps.getLast? none .run = .nothing := ⟨by unfold Idle; decide, rfl, rfl, rfl, rfl, rfl, rfl⟩

theorem test_hyp_PushReports : reportOf (.pushFaultIncomplete .feeder 0) = some (0, 0x24) ∧ Idle pushing .feeder ∧
    reportOf (.pushDone .feeder 256) = some (256, 0x23) ∧
    (reportOf (.pushDone .feeder 255) = some (255, 0x23) ∧ ∀ r, pushing.push.record = some r → r.number ≠ 255) ∧
    pushing.push.record = some billetPush ∧ 1 ≤ billetPush.number ∧ billetPush.number ≤ 255 := by
  refine ⟨rfl, ⟨rfl, nofun⟩, rfl, ⟨rfl, fun r h => ?_⟩, rfl, by decide, by decide⟩
  cases h; decide

theorem test_hyp_LostPush : pushing.push.record = some billetPush ∧ pushing.push.station = none ∧
    pushing.line.mode.noLine = false ∧ Idle pushing .feeder ∧ pushing.push.timer ≠ .stopped ∧
    pushing.orders.get .a = .serving 7 1 none 3 ∧ pushing.line.mode = .run := by unfold Idle; decide

theorem test_hyp_PushEvaluation_run : run.push.record = none ∧ run.push.station = none ∧ run.track.verified = true ∧
    run.line.mode = .run ∧ pushing.push.record ≠ none ∧ measuring.push.station ≠ none ∧ undeclared.track.verified = false ∧
    standby.line.mode ≠ .run ∧ standby.line.mode ≠ .drain ∧ standby.line.mode ≠ .purge := by decide

theorem test_hyp_ExitAsks : ExitAsks (withSlots gaps run) (some (.fill, none)) ∧
    ExitAsks (withSlots (loaded.set 7 (.billet (billet 9 (.overheld 61)))) run) (some (.divert, none)) ∧
    ExitAsks (withOrders (.pending 7 1 none) .free run) (some (.serve, some (.a, 7))) ∧
    ExitAsks (withOrders (.pending 7 2 none) (.pending 8 1 none) run) (some (.serve, some (.b, 8))) ∧
    ExitAsks run none ∧ ExitAsks (withSlots (loaded.set 7 (.billet (billet 9 (.soaking 1)))) run) none := by
  refine ⟨.fill rfl, .divert _ rfl rfl, ?_, ?_, .noOrder _ 3 rfl rfl rfl rfl rfl, 
    .notReady (billet 9 (.soaking 1)) rfl rfl nofun⟩
  · exact .serve _ 3 .a 7 rfl rfl rfl ⟨1, none, rfl, .inl rfl⟩
  · exact .serve _ 3 .b 8 rfl rfl rfl ⟨1, none, rfl, .inr ⟨rfl, by decide⟩⟩

theorem test_hyp_PushEvaluation_others : (inMode .drain standby).billets = 0 ∧ 0 < (inMode .drain run).billets ∧
    (withCradle (some ⟨5, 7, 0⟩) run).track.cradle = some ⟨5, 7, 0⟩ ∧ run.track.cradle = none ∧
    (inMode .purge standby).billets = 0 ∧ 0 < (inMode .purge run).billets := by decide +kernel

theorem test_hyp_StartDecides : Idle run .supervisor ∧ run.line.mode ≠ .standby ∧ undeclared.track.verified = false ∧
    (Idle standby .supervisor ∧ standby.line.mode = .standby ∧ standby.track.verified = true ∧
      (∀ u, (standby.channels.get u).state ≠ .unreached) ∧ (standby.channels.get .u1).state = .idle ∧
      standby.lines.lineStop = false) ∧
    (∀ u, ({ standby with channels := PerInv.all Channel.reset }.channels.get u).state ≠ .idle) ∧
    ((withChannel .u2 { Channel.reset with state := .unreached } standby).channels.get .u2).state = .unreached := by
  refine ⟨⟨rfl, nofun⟩, by decide, rfl, ⟨⟨rfl, nofun⟩, rfl, rfl, fun u => by cases u <;> decide, rfl, rfl⟩, fun u => by cases u <;> decide, rfl⟩

def discovering : State :=
  inFlight ⟨.u2, .readState, .discovery⟩ (withPort .supervisor { PortRec.reset with state := .processing 0x30 }
    (withChannel .u2 { Channel.reset with state := .unreached }
      { standby with link := { standby.link with
          rounds := [{ waiting := [.u2], forStart := true }], discovery := standby.link.discovery.set .u2 .inFlight } }))

/-- The answer to START comes while the supervisor's chip select is asserted: the status byte taken before stays. -/
theorem test_select_kept : gives (.state 2 ⟨.off, 0, 0, none⟩)
      (withPort .supervisor { discovering.ports.supervisor with select := .selected 0x31 (.processing 0x30) } discovering)
      (fun t => decide (t.ports.supervisor.select = .selected 0x31 (.processing 0x30)) &&
        decide (t.ports.supervisor.state = .ready ⟨0x30, .accepted⟩)) &&
    decide (transactionOn (.state 2 ⟨.off, 0, 0, none⟩) ≠ some .supervisor) = true := by decide +kernel

theorem test_hyp_StartDecides_round :
    discovering.link.inFlight = some ⟨⟨.u2, .readState, .discovery⟩, 20, .kbit115, false⟩ ∧
    discovering.link.rounds = [{ waiting := [.u2], forStart := true }] ∧
    discovering.ports.supervisor.state = .processing 0x30 ∧ (discovering.channels.get .u2).state = .unreached ∧
    discovering.line.mode = .standby ∧ discovering.lines.lineStop = false ∧ discovering.line.holdCauses = noCause ∧
    (⟨.off, 0, 0, none⟩ : StateReport).output = .off := by decide

theorem test_hyp_PurgeAndDrain : Idle standby .supervisor ∧ purgeRefusal run = some .wrongMode ∧
    purgeRefusal undeclared = some .wrongMode ∧ purgeRefusal standby = some .notFound ∧
    purgeRefusal (withSlots loaded standby) = none ∧ purgeRefusal heldLine = none ∧
    (withSlots loaded standby).lines.lineStop = false ∧ (withSlots loaded standby).line.restartMark = false ∧
    (inMode (.stopping .purge) standby).line.mode = .stopping .purge ∧ standby.line.mode ≠ .purge ∧
    standby.line.mode ≠ .stopping .purge ∧ standby.line.mode ≠ .run ∧ standby.line.mode ≠ .drain ∧
    (inMode .run standby).billets = 0 ∧ (inMode .run standby).track.cradle = none ∧ 0 < run.billets ∧
    (inMode .drain run).line.mode = .drain ∧ run.lines.lineStop = false := by
  unfold Idle; decide +kernel

theorem test_hyp_StopAndReset : Idle standby .supervisor ∧ standby.line.mode.heating = false ∧
    heating.line.mode.heating = true ∧ heating.lines.lineStop = false ∧ heating.line.restartMark = false ∧
    resetRefusal standby = some .wrongMode ∧
    resetRefusal { inMode .faultStop standby with lines := { standby.lines with lineStop := true } } = some .notUsable ∧
    resetRefusal (inMode .faultStop stopping) = some .busy ∧ resetRefusal (inMode .faultStop pushing) = some .busy ∧
    resetRefusal (inMode .faultStop standby) = none := by unfold Idle; decide +kernel

theorem test_hyp_WarmRestart : Idle run .supervisor ∧ restartRefusal State.reset = some .wrongMode ∧
    restartRefusal { run with line := { run.line with mode := .stopping .standby, restartMark := true } } = some .busy ∧
    restartRefusal pushing = some .busy ∧
    restartRefusal (withChannel .u1 { idleChannel with state := .faulted .noStop } standby) = some .busy ∧
    restartRefusal run = none ∧ run.anyWorking = false ∧ run.link.rounds.all (fun r => !r.forStart) = true ∧
    restartRefusal heating = none ∧ heating.anyWorking = true ∧ heating.lines.lineStop = false := by
  unfold Idle; decide +kernel

theorem test_hyp_DeclareSlots : Idle undeclared .supervisor ∧ undeclared.track.geometry = some geo ∧
    undeclared.track.slots.length = geo.positions ∧ undeclared.recipes.entries.length = 48 ∧
    declareRefusal undeclared 8 8 [.gap, .gap] = some .outOfRange ∧ declareRefusal undeclared 8 0 [.gap] = some .outOfRange ∧
    declareRefusal run 8 1 [.gap] = some .wrongMode ∧ declareRefusal standby 8 1 [.gap] = some .wrongMode ∧
    declareRefusal (withPush gapPush undeclared) 8 1 [.gap] = some .busy ∧
    declareRefusal undeclared 8 1 [.billet 1 7, .billet 1 7] = some .duplicate ∧
    declareRefusal undeclared 8 1 [.billet 1 8] = some .notFound ∧
    declareRefusal { undeclared with recipes := { undeclared.recipes with
      entries := undeclared.recipes.entries.set 0 ⟨.invalid, data⟩ } } 8 1 [.billet 1 7] = some .notUsable ∧
    declareRefusal undeclared 8 2 (List.replicate 7 .gap) = none := by
  unfold Idle; decide +kernel

theorem test_hyp_DeclareSlots_slots : .undeclared ∈ declaredOver undeclared 2 (List.replicate 7 .gap) ∧
    .undeclared ∉ declaredOver { undeclared with track := { undeclared.track with
      slots := .undeclared :: List.replicate 7 .gap } } 1 [.billet 1 7] := by decide +kernel

theorem test_hyp_Track : Idle run .supervisor ∧ run.line.mode ≠ .standby ∧ run.line.mode ≠ .faultStop ∧
    (withPush gapPush standby).push.record ≠ none ∧ standby.line.mode = .standby ∧ standby.push.record = none ∧
    markRequest (.markReject .supervisor 8 9) ≠ none ∧ markRequest (.clearSuspect .supervisor 9 9) ≠ none ∧
    run.line.mode.noLine = false ∧ State.reset.line.mode.noLine = true ∧ run.track.geometry = some geo ∧
    geo.positions < 9 ∧ at1 run.track.slots 8 = some (.billet readyBillet) ∧ readyBillet.id = 9 ∧
    at1 run.track.slots 1 = some .gap := by
  refine ⟨⟨rfl, nofun⟩, by decide, by decide, by decide, rfl, rfl, nofun, nofun, rfl, rfl, rfl, by decide, rfl, rfl, rfl⟩

theorem test_hyp_Recipes : Idle standby .supervisor ∧ standby.track.geometry = some geo ∧ 1 ≤ geo.n ∧ geo.n ≤ 12 ∧
    standby.recipes.entries.length = 48 ∧ 47 ≤ 47 ∧ 47 < 48 ∧ State.reset.line.mode.noLine = true ∧
    standby.line.mode.noLine = false ∧ standby.loader.store = .idle ∧ storing.loader.store ≠ .idle ∧ 0 < uses run 0 ∧
    uses standby 0 = 0 ∧ standby.recipes.entries[47]? = some Recipe.empty ∧ standby.recipes.entries[0]? = some ⟨.stored, data⟩ := by
  unfold Idle; decide +kernel

theorem test_hyp_Recipes_ranges : fieldsOk 80 data ∧ fieldsOk 80 { data with
      grade := 65534, target := 60000, soak := 600, maxHold := 3600, lossRate := 500, windowLow := 1349, windowHigh := 1350
      correction := -80 } ∧ ¬ fieldsOk 80 { data with correction := 81 } ∧ fractionsOk 2 data ∧
    ¬ fractionsOk 2 { data with fractions := 100 :: 99 :: List.replicate 10 0 } ∧
    GradeElsewhere standby 1 7 ∧ ¬ GradeElsewhere standby 0 7 := by
  refine ⟨by unfold fieldsOk; decide, by unfold fieldsOk; decide, by unfold fieldsOk; decide, ?_, ?_, ?_, ?_⟩
  · refine ⟨fun j k h1 h2 h3 => ?_, rfl⟩
    have hj : j = 1 ∨ j = 2 := by omega
    have hk : k = 1 ∨ k = 2 := by omega
    rcases hj with rfl | rfl <;> rcases hk with rfl | rfl <;> first | decide | omega
  · exact fun h => absurd h.2 (by decide)
  · exact ⟨0, ⟨.stored, data⟩, by decide, rfl, by decide, rfl⟩
  · rintro ⟨k, x, hk, hx, hs, hg⟩
    have hc : (standby.recipes.entries.drop 1).all fun r => decide (r.state = .empty) := by decide +kernel
    have hm : x ∈ standby.recipes.entries.drop 1 := by
      match k, hk, hx with
      | k + 1, _, hx =>
        rw [List.mem_iff_getElem?]
        exact ⟨k, by rw [List.getElem?_drop, Nat.add_comm]; exact hx⟩
    exact hs (of_decide_eq_true (List.all_eq_true.mp hc x hm))

theorem test_hyp_SetLearning : Idle standby .supervisor ∧ (1 ≤ 20 ∧ 20 ≤ 20 ∧ 50 ≤ 50 ∧ 150 ≤ 150) ∧ ¬ (151 ≤ 150) ∧
    State.reset.line.mode = .loading ∧ standby.line.mode ≠ .loading ∧ storing.loader.store ≠ .idle ∧
    standby.loader.store = .idle ∧ 4 < standby.recipes.learning.limit := by unfold Idle; decide

theorem test_hyp_Measuring : measuring.push.station = some ⟨readyBillet, ⟨.a, 7⟩, 3⟩ ∧ 2000 ≤ 2000 ∧
    measuring.push.measureTimer ≠ .stopped ∧ standby.push.station = none ∧ PyroStatus.overrange ≠ .valid ∧
    measuring.orders.get .a = .serving 7 1 none 3 ∧ (0xA5 + 0 + 3 + 232) % 256 ≠ 0 ∧
    (⟨0, true⟩ : PyroChar).framingFault = true ∧ judged data 899 = .diverted .cold ∧ judged data 900 = .delivered ∧
    judged data 1100 = .delivered ∧ judged data 1101 = .diverted .hot := by decide

theorem test_hyp_ReadingUpdates : measuring.push.station = some ⟨readyBillet, ⟨.a, 7⟩, 3⟩ ∧ readyBillet.isReady = true ∧
    readyBillet.marked = false ∧ measuring.recipes.entries[readyBillet.recipe]? = some ⟨.stored, data⟩ ∧
    (∃ t, exec (.pyrometerReading .valid 1000) measuring = .next t) ∧
    updated ⟨true, 5, 10, 80⟩ data 1010 = none ∧ updated ⟨true, 5, 10, 80⟩ data 1011 = some (-5) ∧
    updated ⟨true, 5, 10, 80⟩ data 989 = some 5 ∧ updated ⟨true, 5, 10, 4⟩ data 989 = some 4 := by
  refine ⟨rfl, rfl, rfl, rfl, ?_, by decide, by decide, by decide, by decide⟩
  obtain ⟨t, h, _⟩ := next_of_gives test_pyrometerReading
  exact ⟨t, h⟩

theorem test_hyp_LineSecond : aging.track.lineSecond ≠ .stopped ∧ aging.track.verified = true ∧
    aging.orders.get .a = .pending 7 1 (some 1) ∧ at1 aging.track.slots 3 = some (.billet (billet 3 (.soaking 1))) ∧
    at1 aging.track.slots 8 = some (.billet (billet 9 (.ready 60))) ∧ (aging.recipeOf (billet 9 (.ready 60))).maxHold ≤ 60 := by
  decide +kernel

theorem test_hyp_SetLine_geometry : GeometryOk geo ∧ GeometryOk { positions := 32, coils := [⟨1, 32, 2000⟩], ratings := [50] } ∧
    ¬ GeometryOk { geo with positions := 33 } ∧ ¬ GeometryOk { geo with ratings := [] } ∧
    ¬ GeometryOk { geo with coils := [⟨1, 4, 400⟩, ⟨4, 7, 300⟩] } := by
  unfold GeometryOk RatingOk
  refine ⟨?_, ?_, ?_, ?_, ?_⟩ <;> decide +kernel

theorem test_hyp_SetLine : Idle standby .supervisor ∧ NotConfiguring run ∧ ¬ NotConfiguring standby ∧
    ¬ NotConfiguring (inMode (.unconfigured .absent) standby) ∧ StoringOrPushing storing ∧
    StoringOrPushing (withPush gapPush standby) ∧ ¬ StoringOrPushing standby ∧ Unoccupied standby ∧
    ¬ Unoccupied (withSlots loaded standby) ∧ DropsLockout welded { geo with ratings := [] } ∧ ¬ DropsLockout standby geo ∧
    (∀ r ∈ standby.link.rounds, r.forStart = false) := by
  refine ⟨⟨rfl, nofun⟩, ⟨by decide, nofun⟩, fun h => h.1 rfl, fun h => h.2 .absent rfl, .inl nofun, .inr nofun, ?_, ?_, ?_, ?_, ?_, nofun⟩
  · exact fun h => h.elim (fun h => h rfl) fun h => h rfl
  · exact ⟨fun b hb => absurd hb (by simp [standby, gaps]), rfl⟩
  · exact fun h => h.1 (billet 3 .heating) (by decide)
  · exact .inl ⟨{ open_ .u1 1 with state := .failClosed }, by decide, rfl, .inl (by decide)⟩
  · rintro (⟨x, hx, hs, _⟩ | ⟨u, f, hu, _⟩)
    · have hc : ∀ x ∈ standby.matrix, x.state ≠ .failClosed := by decide
      exact hc x hx hs
    · cases u <;> cases hu

theorem test_hyp_SetReach_geometry : GeometryLawful standby ∧ GeometryLawful storing ∧ GeometryLawful welded ∧
    GeometryLawful State.reset ∧ Idle State.reset .supervisor :=
  ⟨geometryLawful_of_geo rfl, geometryLawful_of_geo rfl, geometryLawful_of_geo rfl, nofun, ⟨rfl, nofun⟩⟩

theorem test_hyp_SetReach : Idle standby .supervisor ∧ ReachOk standby [⟨2, 2⟩] ∧ ¬ ReachOk standby [⟨3, 1⟩] ∧
    ¬ ReachOk standby [⟨1, 1⟩, ⟨1, 1⟩] ∧ NotConfiguring run ∧ ¬ NotConfiguring standby ∧ State.reset.track.geometry = none ∧
    storing.loader.store ≠ .idle ∧ standby.loader.store = .idle ∧
    (∃ x ∈ welded.matrix, x.state = .failClosed ∧ ({ inverter := Inv.num x.inverter, coil := x.coil } : CrosspointName) ∉ [⟨1, 2⟩]) ∧
    (∀ x ∈ standby.matrix, x.state ≠ .failClosed) := by
  refine ⟨⟨rfl, nofun⟩, ⟨by decide, by decide, fun g h => ?_⟩, fun h => ?_, fun h => absurd h.2.1 (by decide), ⟨by decide, nofun⟩,
    fun h => h.1 rfl, rfl, nofun, rfl, ?_, by decide⟩
  · cases h; decide
  · exact absurd (h.2.2 geo rfl ⟨3, 1⟩ (by decide)) (by decide)
  · exact ⟨{ open_ .u1 1 with state := .failClosed }, by decide, rfl, by decide⟩

theorem test_hyp_Settings : Idle standby .supervisor ∧ TimersOk TimerSettings.default ∧
    TimersOk { TimerSettings.default with slice := 120, pressSilence := 0 } ∧
    ¬ TimersOk { TimerSettings.default with slice := 121 } ∧ ¬ TimersOk { TimerSettings.default with pressSilence := 499 } ∧
    UrgencyOk UrgencyMap.default ∧ UrgencyOk { UrgencyMap.default with b3 := 31 } ∧
    ¬ UrgencyOk { UrgencyMap.default with b3 := 32 } ∧ State.reset.line.mode = .loading ∧ Idle State.reset .supervisor ∧
    storing.loader.store ≠ .idle ∧ standby.line.mode ≠ .loading ∧ standby.loader.store = .idle := by
  unfold Idle TimersOk UrgencyOk
  refine ⟨?_, ?_, ?_, ?_, ?_, ?_, ?_, ?_, ?_, ?_, ?_, ?_, ?_⟩ <;> decide

theorem test_hyp_LineLimit : Idle heating .supervisor ∧ LimitOk 0 ∧ LimitOk 8000 ∧ ¬ LimitOk 8010 ∧ ¬ LimitOk 5 ∧
    LimitSettingsOk LimitSettings.default ∧ ¬ LimitSettingsOk { LimitSettings.default with threshold := 9 } ∧
    heating.line.mode ≠ .loading ∧ heating.loader.store = .idle ∧ committedPower heating = 300 ∧ 300 ≤ 300 ∧
    storing.loader.store ≠ .idle ∧ State.reset.line.mode = .loading := by
  unfold Idle LimitOk LimitSettingsOk; decide +kernel

theorem test_hyp_ReductionPlan : Idle heating .supervisor ∧ LimitOk 290 ∧ heating.line.mode ≠ .loading ∧
    heating.loader.store = .idle ∧ 290 < committedPower heating ∧
    (∀ u g, Candidate heating u g → (heating.channels.get u).deferred ≠ none → (heating.channels.get u).commanded ≠ none) ∧
    Candidate heating .u1 ⟨1, 1, false⟩ ∧ overCandidates heating (floorFor heating) = 20 ∧ 10 < 20 ∧ 20 ≤ 20 := by
  refine ⟨⟨rfl, nofun⟩, by unfold LimitOk; decide, by decide, rfl, by decide +kernel, fun u g h hd => ?_, ?_, by decide +kernel,
    by decide, by decide⟩
  · cases u <;> exact absurd (rfl : _ = none) hd
  · unfold Candidate; decide +kernel

def lastDisabled (c : Coil) : State := { standby with alloc := { standby.alloc with coils := standby.alloc.coils.set 1 c } }

theorem test_hyp_Coils_requests : Idle standby .supervisor ∧ standby.track.geometry = some geo ∧ geo.coils.length < 3 ∧
    1 ≤ 2 ∧ 2 ≤ geo.coils.length ∧ standby.line.mode.noLine = false ∧
    standby.coil 2 = some ⟨.unpowered, false, 0, none⟩ ∧ challenged.coil 2 = some ⟨.queued 3, false, 1800, some ⟨7, .heating⟩⟩ ∧
    heating.coil 1 = some ⟨.assigned .u1, false, 1080, some ⟨3, .heating⟩⟩ ∧ heating.alloc.grants.get .u1 = some ⟨1, 1, false⟩ ∧
    welded.coil 1 = some ⟨.locked, false, 0, none⟩ ∧
    (lastDisabled ⟨.disabled, true, 0, none⟩).coil 2 = some ⟨.disabled, true, 0, none⟩ ∧
    State.reset.line.mode.noLine = true ∧ State.reset.track.geometry = none := by
  unfold Idle; decide +kernel

theorem test_hyp_Coils_joins : QueuedOnly heating 1 ⟨.assigned .u1, false, 1080, some ⟨3, .heating⟩⟩ ∧
    ¬ Joins standby 2 ⟨.disabled, true, 0, none⟩ ∧ Joins run 2 ⟨.disabled, true, 50, some ⟨7, .heating⟩⟩ ∧
    QueuedOnly run 2 ⟨.disabled, true, 50, some ⟨7, .heating⟩⟩ := by
  refine ⟨fun k hk h => ?_, fun h => absurd h.1 (by decide), ?_, fun k hk h => ?_⟩
  · match k, hk, h with
    | 0, _, h | 1, _, h | 2, _, h | 3, _, h => exact absurd h (by decide +kernel)
  · exact ⟨rfl, by decide, nofun, .u1, open_ .u1 2, rfl, nofun, nofun⟩
  · match k, hk, h with
    | 0, _, h | 1, _, h | 2, _, h | 3, _, h => exact absurd h (by decide +kernel)

theorem test_hyp_ClearSequence : Idle standby .supervisor ∧ ¬ NumberOk standby 3 ∧ NumberOk standby 2 ∧ Inv.num .u2 = 2 ∧
    standby.line.mode = .standby ∧ run.line.mode ≠ .standby ∧ run.line.mode ≠ .faultStop ∧ ¬ Clearable standby .u2 ∧
    Clearable discovering .u2 ∧ Clearable (withChannel .u2 { idleChannel with state := .faulted .rejected } standby) .u2 ∧
    (discovering.channels.get .u2).clearing = false ∧
    ((withChannel .u2 { idleChannel with state := .faulted .rejected, clearing := true } standby).channels.get .u2).clearing = true := by
  refine ⟨⟨rfl, nofun⟩, fun h => absurd (h.2.2 geo rfl) (by decide), ⟨by decide, by decide, fun g h => ?_⟩, rfl, rfl, by decide,
    by decide, ?_, .inl rfl, .inr ⟨.rejected, rfl⟩, rfl, rfl⟩
  · cases h; decide
  · rintro (h | ⟨k, h⟩) <;> cases h

theorem test_hyp_Lockout : Idle welded .supervisor ∧ welded.track.geometry = some geo ∧ geo.ratings.length < 3 ∧
    geo.coils.length < 3 ∧ (1 ≤ 1 ∧ 1 ≤ geo.ratings.length ∧ geo.ratings.length ≤ 4 ∧ 1 ≤ 1 ∧ 1 ≤ geo.coils.length) ∧
    welded.line.mode.noLine = false ∧ Inv.num .u1 = 1 ∧ welded.crosspoint .u2 1 = none ∧
    welded.crosspoint .u1 2 = some (open_ .u1 2) ∧
    welded.crosspoint .u1 1 = some { open_ .u1 1 with state := .failClosed } ∧ welded.feedbackClosed .u1 1 = false ∧
    ({ welded with lines := heating.lines }).feedbackClosed .u1 1 = true ∧
    failedOpen.crosspoint .u1 1 = some { open_ .u1 1 with state := .failOpen } ∧
    (welded.channels.get .u1).state = .locked .idle ∧ (failedOpen.channels.get .u1).state = .idle ∧
    welded.coil 1 = some ⟨.locked, false, 0, none⟩ ∧ welded.line.mode.heating = false := by unfold Idle; decide +kernel

theorem test_hyp_Lockout_others : ¬ RowLocked welded .u1 1 ∧ RowLocked welded .u1 2 ∧ ¬ ColumnLocked welded .u1 1 ∧
    ColumnLocked welded .u2 1 := by
  have hc : ∀ y ∈ welded.matrix, y.state = .failClosed → y.inverter = .u1 ∧ y.coil = 1 := by decide
  refine ⟨?_, ?_, ?_, ?_⟩
  · rintro ⟨y, hy, _, hn, hs⟩; exact hn (hc y hy hs).2
  · exact ⟨_, by decide, rfl, by decide, (rfl : ({ open_ .u1 1 with state := .failClosed } : Crosspoint).state = _)⟩
  · rintro ⟨y, hy, _, hn, hs⟩; exact hn (hc y hy hs).1
  · exact ⟨_, by decide, rfl, by decide, (rfl : ({ open_ .u1 1 with state := .failClosed } : Crosspoint).state = _)⟩

theorem test_hyp_Store : Idle standby .supervisor ∧ State.reset.line.mode.noLine = true ∧ standby.line.mode.noLine = false ∧
    storing.loader.store = .writing [0x10, 5] ∧ ([0x10, 5] : List Byte) ≠ [] ∧ standby.loader.store = .idle ∧
    standby.track.geometry = some geo ∧ 0 ≤ ([0x10, 5] : List Byte).length ∧ 2 ≤ ([0x10, 5] : List Byte).length := by
  unfold Idle; decide

theorem test_hyp_StoredImage : Storable standby geo := by
  unfold Storable GeometryOk RatingOk TimersOk UrgencyOk LimitSettingsOk LimitOk
  refine ⟨rfl, rfl, by decide +kernel, by decide, by decide, by decide, by decide, by decide, by decide, by decide, by decide,
    by decide +kernel, ?_, ?_⟩
  · unfold fieldsOk; decide +kernel
  · intro i k x y hx hy hsx hsy _
    have hz : ∀ (i : Nat) (x : Recipe), standby.recipes.entries[i]? = some x → x.state ≠ .empty → i = 0 := by
      intro i x h hs
      match i, h with
      | 0, _ => rfl
      | i + 1, h =>
        have hm : x ∈ List.replicate 47 Recipe.empty := List.mem_of_getElem? h
        rw [List.mem_replicate] at hm
        exact absurd (by rw [hm.2]; rfl) hs
    rw [hz i x hx hsx, hz k y hy hsy]

def captured : State := { standby with loader := { standby.loader with store := .writing (standby.capturedImage geo) } }

theorem test_hyp_StoredImage_runs : captured.loader.store = .writing (captured.capturedImage geo) ∧
    ∃ t r, exec .storeCompleteOk captured = .next t ∧ exec (.hardwareReset 0) t = .next r := by
  refine ⟨by decide +kernel, ?_⟩
  have h1 : gives .storeCompleteOk captured (fun _ => true) = true := by decide +kernel
  obtain ⟨t, ht, _⟩ := next_of_gives h1
  have h2 : gives (.hardwareReset 0) t (fun _ => true) = true := rfl
  obtain ⟨r, hr, _⟩ := next_of_gives h2
  exact ⟨t, r, ht, hr⟩

/-- The part right after a reset, beside an EEPROM that holds the image of the line above. -/
def restarted : State :=
  { State.reset with loader := { State.reset.loader with
      eeprom := ((standby.capturedImage geo).zipIdx.filter fun x => x.1 != 0xFF).map fun x => ⟨x.2, x.1⟩ } }

theorem test_hyp_Load : BeforeLoad restarted ∧ BeforeLoad State.reset ∧ restarted.loader.load = .reading ∧
    (∃ st g map, restarted.loadOutcome = some st ∧ st.geometry = some g ∧ st.reach = some map) ∧
    State.reset.loadOutcome = none := by
  refine ⟨by unfold BeforeLoad; decide +kernel, by unfold BeforeLoad; decide +kernel, rfl, ?_, by decide +kernel⟩
  have h : (restarted.loadOutcome.bind fun st => st.geometry.bind fun g => st.reach.map fun m => (g, m)).isSome = true := by
    decide +kernel
  cases ho : restarted.loadOutcome with
  | none => simp [ho] at h
  | some st =>
    cases hg : st.geometry with
    | none => simp [ho, hg] at h
    | some g =>
      cases hm : st.reach with
      | none => simp [ho, hg, hm] at h
      | some m => exact ⟨st, g, m, rfl, hg, hm⟩

theorem test_imageApplied : gives .imageApplied restarted (fun t => decide (t.line.mode = .standby) &&
    decide (t.track.geometry = some geo) && decide (t.link.queue.length = 2) &&
    decide (t.recipes.entries[0]? = some ⟨.stored, data⟩)) = true := by decide +kernel

theorem test_hyp_Silence : State.reset.orders.silence = .stopped ∧ standby.orders.silence ≠ .stopped ∧
    standby.line.mode ≠ .run ∧ standby.line.mode ≠ .drain ∧ run.line.mode = .run ∧ (inMode .drain run).line.mode = .drain ∧
    run.lines.lineStop = false ∧ standby.line.holdTimer = .stopped ∧ heldLine.line.holdTimer ≠ .stopped ∧
    heldLine.settings.limits.autoPurge = false ∧ heldLine.line.mode = .hold .run ∧ heldLine.line.restartMark = false := by
  decide

theorem test_hyp_Slice : standby.alloc.slice.get .u1 = .stopped ∧ challenged.alloc.slice.get .u1 ≠ .stopped ∧
    challenged.alloc.grants.get .u1 = some ⟨1, 1, false⟩ ∧ (challenged.channels.get .u1).state = .energized ∧
    (Challenger challenged .u1 1 ∧ ¬ SettingInFlight challenged .u1) ∧
    (Challenger (inFlight ⟨.u1, .setOutput 200, .control⟩ challenged) .u1 1 ∧
      SettingInFlight (inFlight ⟨.u1, .setOutput 200, .control⟩ challenged) .u1) ∧ ¬ Challenger heating .u1 1 := by
  refine ⟨rfl, by decide, rfl, rfl, ⟨?_, ?_⟩, ⟨?_, ?_⟩, ?_⟩
  · exact ⟨2, _, ⟨7, .heating⟩, open_ .u1 2, rfl, ⟨3, rfl⟩, rfl, by decide +kernel, rfl, nofun, nofun⟩
  · rintro ⟨x, kw, h, _⟩; cases h
  · exact ⟨2, _, ⟨7, .heating⟩, open_ .u1 2, rfl, ⟨3, rfl⟩, rfl, by decide +kernel, rfl, nofun, nofun⟩
  · exact ⟨_, 200, rfl, rfl, rfl⟩
  · rintro ⟨k, c, l, x, hk, ⟨d, hd⟩, _⟩
    match k, hk with
    | 0, hk => cases hk
    | 1, hk => cases hk; cases hd
    | 2, hk => cases hk; cases hd
    | n + 3, hk => simp [heating, State.coil, at1] at hk

/-- U1 heats below its rating, with headroom. -/
def raisable : State :=
  { withChannel .u1 { heating.channels.u1 with accepted := 100 } heating with
    alloc := { heating.alloc with slice := heating.alloc.slice.set .u1 (.running 5) } }

theorem test_hyp_Slice_raise : (raisable.channels.get .u1).commanded = none ∧
    (raisable.channels.get .u1).accepted < min (raisable.inverterRating .u1) (raisable.coilRating 1) ∧
    0 < raisable.alloc.effective - committedPower raisable ∧ raisable.alloc.pendingLimit = none ∧
    gives (.sliceExpiry .u1) raisable (fun t => decide (t.link.queue = [⟨.u1, .setOutput 300, .control⟩])) = true ∧
    ¬ ((heating.channels.get .u1).accepted < min (heating.inverterRating .u1) (heating.coilRating 1)) := by decide +kernel

theorem test_hyp_LinkTimers : State.reset.link.pollTimer = .stopped ∧ standby.link.pollTimer ≠ .stopped ∧
    (standby.channels.get .u1).retry = none ∧ standby.link.holdback.get .u1 = .stopped ∧
    ({ idleChannel with retry := some ⟨.stopOutput, 100⟩ } : Channel).retry = some ⟨.stopOutput, 100⟩ := by decide

theorem test_hyp_SendNext : (inFlight ⟨.u1, .readState, .poll⟩ heating).link.inFlight ≠ none ∧
    State.reset.track.geometry = none ∧ standby.link.inFlight = none ∧ standby.link.quiet = .stopped ∧
    standby.track.geometry ≠ none ∧ standby.link.queue = [] ∧ standby.link.pointer ≤ 4 ∧
    (queued ⟨.u1, .setOutput 200, .control⟩ heating).link.queue = ⟨.u1, .setOutput 200, .control⟩ :: [] ∧ MaySet heating ∧
    ¬ MaySet standby ∧ (∀ u, standby.link.pollDue.get u = false) := by
  refine ⟨nofun, rfl, rfl, rfl, nofun, rfl, by decide, rfl, ⟨rfl, rfl⟩, fun h => absurd h.1 (by decide), fun u => ?_⟩
  cases u <;> rfl

theorem test_hyp_SendNext_poll : ∀ v, ({ heating.link with pollDue := ⟨true, false, true, false⟩, pointer := 1 } : Link).pollDue.get v
    = true → place 1 .u3 ≤ place 1 v := by
  intro v; cases v <;> decide

/-- A SET_OUTPUT of U1 at the head of the queue in FAULT_STOP, before the start-up stop of U2. -/
def withdrawing : State :=
  { inMode .faultStop lastTry with link := { lastTry.link with
      inFlight := none, queue := [⟨.u1, .setOutput 200, .control⟩, ⟨.u2, .stopOutput, .startStop⟩] } }

theorem test_hyp_SendNext_withdraws : withdrawing.link.queue = ⟨.u1, .setOutput 200, .control⟩ :: [⟨.u2, .stopOutput, .startStop⟩] ∧
    ¬ MaySet withdrawing ∧ (∀ y ∈ withdrawing.link.queue, y.purpose = .startStop → y.command = .stopOutput) ∧
    gives .sendNextTransaction withdrawing (fun t => decide (t.link.queue = [⟨.u2, .stopOutput, .startStop⟩]) &&
      decide (t.channels.u1.commanded = none) && decide (t.link.inFlight = none)) = true :=
  ⟨rfl, fun h => absurd h.1 (by decide), by decide, by decide +kernel⟩

/-- A poll of U1 in flight. -/
def polling : State := inFlight ⟨.u1, .readState, .poll⟩ heating

theorem test_hyp_Frames : standby.link.inFlight = none ∧ polling.link.inFlight ≠ none ∧ 2 ≠ Inv.num .u1 ∧
    (0x02 : Byte).toNat ≠ Inv.num .u1 ∧ (0x01 : Byte).toNat = Inv.num .u1 ∧ SpellsNothing [0x01, 0x81, 0, 0, 0] ∧
    ((⟨.fault, 0, 0, none⟩ : StateReport).output = .fault ↔ (⟨.fault, 0, 0, none⟩ : StateReport).faultCode = none) := by
  refine ⟨rfl, nofun, by decide, by decide, by decide, ?_, by decide⟩
  unfold SpellsNothing; decide +kernel

theorem test_hyp_Timeouts : polling.link.inFlight = some ⟨⟨.u1, .readState, .poll⟩, 20, .kbit115, false⟩ ∧
    ¬ Losing polling .u1 ∧ Losing lastTry .u1 ∧ Ordinary ⟨⟨.u1, .readState, .poll⟩, 20, .kbit115, false⟩ ∧
    Ordinary ⟨⟨.u1, .setOutput 200, .control⟩, 20, .kbit115, false⟩ ∧
    (lastTry.channels.get .u1).coil = some 1 ∧ (lastTry.channels.get .u1).state = .energized ∧
    lastTry.crosspoint .u1 1 = some { open_ .u1 1 with drive := true, state := .closed } ∧
    at1 lastTry.track.slots 3 = some (.billet (billet 3 .heating)) ∧ lastTry.coilRange 1 = some ⟨1, 4, 400⟩ := by
  unfold Losing Ordinary; decide +kernel

theorem test_hyp_Timeouts_idle : Losing (withChannel .u1 { idleChannel with timeouts := 2 }
      (inFlight ⟨.u1, .stopOutput, .startStop⟩ standby)) .u1 ∧
    (stopping.channels.get .u1).clearing = false ∧ (stopping.channels.get .u1).state = .stopping := by
  unfold Losing; decide

/-- U1 with its crosspoint closed in a state of its own, a transaction in flight, after `n` timeouts. -/
def missing (x : LinkEntry) (st : ChannelState) (n : Nat) : State :=
  inFlight x (withChannel .u1 { heating.channels.u1 with state := st, timeouts := n, clearing := true } (inMode .faultStop heating))

/-- The same with no coil assigned and every drive open. -/
def missingUnconnected (x : LinkEntry) (n : Nat) : State :=
  inFlight x (withChannel .u1 { idleChannel with state := .faulted .noStop, timeouts := n, clearing := true } (inMode .faultStop standby))

theorem test_hyp_Timeouts_noStop : StopFails (missing ⟨.u1, .readState, .poll⟩ (.faulted .noStop) 2)
      ⟨⟨.u1, .readState, .poll⟩, 20, .kbit115, false⟩ .u1 ∧
    StopFails (missing ⟨.u1, .clearFault, .clear⟩ (.faulted .noStop) 0) ⟨⟨.u1, .clearFault, .clear⟩, 20, .kbit115, false⟩ .u1 ∧
    StopFails (missingUnconnected ⟨.u1, .readState, .poll⟩ 2) ⟨⟨.u1, .readState, .poll⟩, 20, .kbit115, false⟩ .u1 ∧
    StopFails (missingUnconnected ⟨.u1, .clearFault, .clear⟩ 0) ⟨⟨.u1, .clearFault, .clear⟩, 20, .kbit115, false⟩ .u1 ∧
    (missing ⟨.u1, .readState, .poll⟩ (.faulted .noStop) 2).crosspoint .u1 1 =
      some { open_ .u1 1 with drive := true, state := .closed } ∧
    ((missingUnconnected ⟨.u1, .readState, .poll⟩ 2).channels.get .u1).coil = none := by
  unfold StopFails Losing Ordinary; decide +kernel

theorem test_hyp_Timeouts_moving : Losing (missing ⟨.u1, .readState, .poll⟩ .closing 2) .u1 ∧
    Losing (missing ⟨.u1, .readState, .poll⟩ .opening 2) .u1 ∧
    ((missing ⟨.u1, .readState, .poll⟩ .closing 2).channels.get .u1).state = .closing ∧
    ((missing ⟨.u1, .readState, .poll⟩ .opening 2).channels.get .u1).state = .opening ∧
    (missing ⟨.u1, .readState, .poll⟩ .opening 2).link.inFlight = some ⟨⟨.u1, .readState, .poll⟩, 20, .kbit115, false⟩ := by
  unfold Losing; decide +kernel

/-- R90, R91, R100: FAULTED(NO_STOP) with an assigned coil opens its drive at the lost threshold, and at a timeout of its clear
sequence whatever its count. -/
theorem test_replyTimeout_noStopLost :
    gives .replyTimeout (missing ⟨.u1, .readState, .poll⟩ (.faulted .noStop) 2) (fun t =>
      decide (t.channels.u1.state = .opening) && decide (t.channels.u1.pendingCause = some .linkLost) &&
      decide (at1 t.track.slots 3 = some (.billet { billet 3 .heating with suspect := some .energyUnknown }))) = true ∧
    gives .replyTimeout (missing ⟨.u1, .clearFault, .clear⟩ (.faulted .noStop) 0) (fun t =>
      decide (t.channels.u1.state = .opening) && decide (t.channels.u1.clearing = false) &&
      decide (t.crosspoint .u1 1 = some { open_ .u1 1 with state := .opening, timer := .running 150 })) = true := by
  decide +kernel

/-- R91: with no assigned coil the channel is FAULTED(LINK_LOST) at once; a lost CLOSING channel keeps its drive. -/
theorem test_replyTimeout_lostElsewhere :
    gives .replyTimeout (missingUnconnected ⟨.u1, .clearFault, .clear⟩ 0) (fun t =>
      decide (t.channels.u1.state = .faulted .linkLost) && t.ports.supervisor.flags.channelFault &&
      decide (t.line.stopCauses = StopCauses.none)) = true ∧
    gives .replyTimeout (missing ⟨.u1, .readState, .poll⟩ .closing 2) (fun t =>
      decide (t.channels.u1.state = .closing) && t.channels.u1.release &&
      decide (t.channels.u1.pendingCause = some .linkLost) &&
      decide (t.crosspoint .u1 1 = some { open_ .u1 1 with drive := true, state := .closed })) = true := by
  decide +kernel

/-- The release mark was set while a SET_OUTPUT of 400 kW was in flight. -/
def released : State :=
  inFlight ⟨.u1, .setOutput 400, .control⟩ (withChannel .u1
    { heating.channels.u1 with commanded := some 400, sent := true, release := true } heating)

/-- R83: the larger of the accepted and the commanded setpoint counts as accepted, and the channel stops. -/
theorem test_replyTimeout_released : ¬ Losing released .u1 ∧ (released.channels.get .u1).release = true ∧
    gives .replyTimeout released (fun t => decide (t.channels.u1.state = .stopping) &&
      decide (t.channels.u1.accepted = 400) && decide (t.link.queue = [⟨.u1, .stopOutput, .control⟩])) = true := by
  unfold Losing; decide +kernel

/-- A command of U1 is in flight that brings it to the lost threshold at its timeout, while the CLEAR_FAULT of a clear
sequence waits. -/
def losingClear (p : Purpose) (st : ChannelState) : State :=
  let s := withChannel .u1 { idleChannel with state := st, clearing := true, timeouts := 2 }
    (inFlight ⟨.u1, .readState, p⟩ standby)
  { s with link := { s.link with queue := [⟨.u2, .readState, .discovery⟩, ⟨.u1, .clearFault, .clear⟩] } }

/-- The last row of R91: the sequence ends by R100, its command is withdrawn, and the channel takes the outcome. -/
theorem test_replyTimeout_lostClearEnds : gives .replyTimeout (losingClear .startStop .unreached) (fun t =>
      decide (t.channels.u1.state = .unreached) && decide (t.channels.u1.clearing = false) &&
      decide (t.link.queue = [⟨.u2, .readState, .discovery⟩])) = true ∧
    gives .replyTimeout (losingClear .discovery (.locked (.faulted .rejected))) (fun t =>
      decide (t.channels.u1.state = .locked (.faulted .linkLost)) && decide (t.channels.u1.clearing = false) &&
      decide (t.link.queue = [⟨.u2, .readState, .discovery⟩])) = true ∧
    gives .replyTimeout (losingClear .poll (.faulted .rejected)) (fun t =>
      decide (t.channels.u1.state = .faulted .linkLost) && t.ports.supervisor.flags.channelFault) = true := by
  decide +kernel

/-- R120: the timeout of a DISCOVERY read changes nothing more for an UNREACHED channel. -/
theorem test_replyTimeout_discoveryGoesOn : gives .replyTimeout (losingClear .discovery .unreached) (fun t =>
    decide (t.channels.u1.state = .unreached) && t.channels.u1.clearing && decide (t.link.queue.length = 2)) = true := by
  decide +kernel

theorem test_hyp_Timeouts_clear : Losing (losingClear .startStop .unreached) .u1 ∧
    OutOfService ((losingClear .startStop .unreached).channels.get .u1).state ∧
    OutOfService ((losingClear .discovery (.locked .idle)).channels.get .u1).state ∧
    OutOfService ((losingClear .clear (.faulted .linkLost)).channels.get .u1).state ∧
    OutOfService ((withChannel .u1 { idleChannel with state := .faulted .rejected } standby).channels.get .u1).state ∧
    ((losingClear .clear (.faulted .linkLost)).channels.get .u1).clearing = true ∧
    (losingClear .clear .unreached).link.inFlight = some ⟨⟨.u1, .readState, .clear⟩, 20, .kbit115, false⟩ := by
  refine ⟨by unfold Losing; decide, .inl rfl, .inr (.inl ⟨_, rfl⟩), .inr (.inr ⟨.linkLost, by decide, rfl⟩),
    .inr (.inr ⟨.rejected, by decide, rfl⟩), rfl, rfl⟩

theorem test_hyp_AcceptReject : (lastTry.channels.get .u1).state = .energized ∧ (lastTry.channels.get .u1).release = false ∧
    lastTry.settings.timers.rejectLimit ≤ min 8 ((lastTry.channels.get .u1).rejects + 1) ∧
    min 8 ((heating.channels.get .u1).rejects + 1) < heating.settings.timers.rejectLimit ∧
    (inFlight ⟨.u1, .stopOutput, .control⟩ stopping).link.inFlight
      = some ⟨⟨.u1, .stopOutput, .control⟩, 20, .kbit115, false⟩ ∧
    ({ idleChannel with clearing := true } : Channel).clearing = true := by decide

theorem test_hyp_StateReplies : Consistent ⟨.on, 400, 300, none⟩ ∧ Consistent ⟨.fault, 400, 0, some 3⟩ ∧
    (polling.channels.get .u1).coil = some 1 ∧ (polling.channels.get .u1).baseline = some 100 ∧
    (idleChannel.coil = none ∧ Channel.reset.baseline = none) ∧ (stopping.channels.get .u1).state = .stopping ∧
    stopping.crosspoint .u1 1 = some { open_ .u1 1 with drive := true, state := .closed } ∧
    (discovering.channels.get .u2).state = .unreached ∧ discovering.line.mode.heating = false ∧
    (∀ y ∈ standby.link.rounds, y.forStart = false) ∧
    ({ idleChannel with state := .faulted .rejected, clearing := true } : Channel).coil = none := by
  unfold Consistent; decide

theorem test_hyp_LineStop : standby.lines.lineStop = false ∧ State.reset.line.mode.noLine = true ∧
    ({ run with lines := { run.lines with lineStop := true } }).lines.lineStop = true ∧
    (inMode .faultStop standby).line.mode = .faultStop ∧ run.line.mode.noLine = false ∧ run.line.mode ≠ .faultStop ∧
    run.line.mode.heating = true ∧ run.push.station = none ∧
    measuring.push.station = some ⟨readyBillet, ⟨.a, 7⟩, 3⟩ ∧ (stopping.channels.get .u1).stopConfirm ≠ .stopped ∧
    (stopping.channels.get .u1).state = .stopping ∧ stopping.line.mode.noLine = false ∧
    (standby.channels.get .u1).stopConfirm = .stopped := by decide

theorem test_hyp_Feedback : 1 ≤ 12 ∧ 12 ≤ (standby.lines.feedback.get .u1).length ∧ standby.crosspoint .u2 1 = none ∧
    (heating.crosspoint .u1 1).map Crosspoint.state = some .closed ∧
    ((closing.crosspoint .u1 1).map Crosspoint.state = some .closing ∧ (closing.channels.get .u1).state = .closing ∧
      (closing.channels.get .u1).coil = some 1 ∧ MaySet closing ∧ (closing.channels.get .u1).release = false ∧
      (closing.crosspoint .u1 1).map Crosspoint.timer = some (.running 150) ∧ closing.feedbackClosed .u1 1 = false) ∧
    ((standby.crosspoint .u1 1).map Crosspoint.state = some .opened ∧ (standby.channels.get .u1).coil ≠ some 1 ∧
      (standby.channels.get .u1).state = .idle) ∧
    ((opening.crosspoint .u1 1).map Crosspoint.state = some .opening ∧ (opening.channels.get .u1).state = .opening ∧
      (opening.channels.get .u1).coil = some 1 ∧ opening.line.mode.heating = false ∧
      (opening.channels.get .u1).pendingWelded = false ∧ opening.feedbackClosed .u1 1 = true) ∧
    heating.alloc.grants.get .u1 = some ⟨1, 1, false⟩ ∧ ¬ MaySet opening := by
  unfold MaySet; decide +kernel

/-! ## States that meet the further clauses -/

theorem test_hyp_PortChecksRefuse_length : Idle standby .supervisor ∧
    frameOk (0x32 :: 1 :: [7] ++ [byteOf (crc8 [0x32, 1, 7])]) = true ∧
    requestOf (.hold .supervisor) = some (.supervisor, 0x32) ∧ Port.supervisor ∈ senders (.hold .supervisor) ∧
    ¬ LengthTaken 0x32 [7] ∧ LengthTaken 0x32 [] :=
  ⟨⟨rfl, nofun⟩, by decide +kernel, rfl, by decide, fun (h : ([7] : List Byte).length = 0) => absurd h (by decide), rfl⟩

theorem test_badLength : answers (.requestTransaction .supervisor [0x32, 1, 7, byteOf (crc8 [0x32, 1, 7])]) run .supervisor
    (.refused .badLength) = true := by decide +kernel

theorem test_statusRead : gives (.requestTransaction .press [] (.selector 0)) held (fun t =>
    decide (t = withPort .press { held.ports.press with shifted := some ⟨held.ports.press.statusByte .press, none⟩ } held))
    = true := by decide +kernel

theorem test_fetchBytes : gives (.requestTransaction .press (List.replicate 4 0) (.selector 0xC3)) held (fun t =>
      decide (t.ports.press.state = .idle)) = true ∧
    gives (.requestTransaction .press (List.replicate 3 0) (.selector 0xC3)) held (fun t =>
      decide (t.ports.press.state = held.ports.press.state)) = true := by decide +kernel

theorem test_filler : (Shifted.mk 7 (some (.none 0x10))).bytes 6 = [7, 0, 0x10, byteOf (crc8 [0, 0x10]), 0xFF, 0xFF] ∧
    (Shifted.mk 7 none).bytes 3 = [7, 0xFF, 0xFF] := by decide +kernel

/-- The billet of C1 is 10 kJ short of its effective target. -/
def almostHot : State :=
  inFlight ⟨.u1, .readState, .poll⟩ (withSlots (loaded.set 2 (.billet { billet 3 .heating with delivered := 1790, loss := 3 })) heating)

theorem test_energyReachesTarget : gives (.state 1 ⟨.on, 110, 300, none⟩) almostHot (fun t =>
    decide (t.track.slots = loaded.set 2 (.billet { billet 3 (.soaking 20) with delivered := 1800 }))) = true := by
  decide +kernel

theorem test_hyp_Reads_range : Idle heating .press ∧ heating.line.mode ≠ .loading ∧ heating.track.geometry = some geo ∧
    geo.positions < 8 + 2 - 1 ∧ 2 < 3 ∧ 16 < 17 ∧ 13 < 14 ∧ Idle standby .supervisor ∧ 47 < 48 ∧
    Idle State.reset .supervisor ∧ State.reset.line.mode = .loading := by unfold Idle; decide

theorem test_cradleEndsDrain_working : gives (.unloadCradle .feeder)
    (withCradle (some ⟨5, 7, 0⟩) (withSlots gaps (inMode .drain heating)))
    (fun t => decide (t.line.mode = .stopping .standby)) = true := by decide +kernel

/-- A GAP push brings out the last billet, OVERHELD meanwhile, whose order slot is SERVING. -/
def lastLeaves (m : Mode) : State :=
  inMode m (withSlots (gaps.set 7 (.billet (billet 9 (.overheld 61)))) (withPush { gapPush with served := some ⟨.a, 7⟩ }
    (withOrders (.serving 7 1 none 3) .free run)))

theorem test_pushDone_endsPurge : gives (.pushDone .feeder 3) (lastLeaves .purge) (fun t =>
    decide (t.line.mode = .standby) && decide (t.orders.a = .cancelled 7 1 .mode)) = true := by decide +kernel
theorem test_pushDone_endsDrain : gives (.pushDone .feeder 3) (lastLeaves .drain) (fun t =>
    decide (t.line.mode = .standby)) = true := by decide +kernel
theorem test_pushDone_returnsSlot : gives (.pushDone .feeder 3)
    (inMode .run (withSlots (loaded.set 7 (.billet (billet 9 (.overheld 61)))) pushing)) (fun t =>
    decide (t.orders.a = .pending 7 1 none) && t.lines.divert) = true := by decide +kernel
theorem test_pushDone_lineStop : gives (.pushDone .feeder 3)
    (inMode .faultStop { pushing with lines := { pushing.lines with lineStop := true } }) (fun t =>
    decide (t.line.mode = .faultStop) && decide (t.push.record = none)) = true := by decide +kernel

theorem test_hyp_PushDone_ends : (∀ b, Slot.billet b ∉ (shifted (lastLeaves .purge) .gap).slots) ∧
    (shifted (lastLeaves .drain) .gap).cradle = none ∧ (lastLeaves .drain).push.record ≠ none ∧
    (lastLeaves .purge).orders.get .a = .serving 7 1 none 3 ∧ (lastLeaves .purge).line.mode = .purge := by
  refine ⟨fun b h => ?_, by decide +kernel, nofun, rfl, rfl⟩
  have hs : (shifted (lastLeaves .purge) .gap).slots = List.replicate 8 .gap := by decide +kernel
  rw [hs, List.mem_replicate] at h
  exact absurd h.2 nofun

theorem test_hyp_noGeometry : Idle State.reset .supervisor ∧ State.reset.track.geometry = none ∧
    State.reset.line.mode.noLine = true ∧ (1 ≤ 7 ∧ 7 ≤ 7) ∧ fieldsOk State.reset.recipes.learning.limit data ∧
    (List.replicate 7 DeclEntry.gap).all entryInRange = true := by unfold Idle fieldsOk; decide

theorem test_noGeometry : answers (.declareSlots .supervisor 1 [.gap]) State.reset .supervisor (.refused .wrongMode) = true ∧
    answers (.writeRecipe .supervisor 0 data false) State.reset .supervisor (.refused .wrongMode) = true ∧
    answers (.deleteRecipe .supervisor 48) State.reset .supervisor (.refused .outOfRange) = true ∧
    answers (.releaseLockout .supervisor ⟨9, 9⟩) State.reset .supervisor (.refused .wrongMode) = true := by decide +kernel

/-- A damaged frame with a preamble inside: its last characters begin the frame of a reading of 1000 °C. -/
def hunting : State := { measuring with lines := { measuring.lines with pyro := [⟨0xA5, false⟩, ⟨0, false⟩, ⟨3, false⟩] } }

theorem test_pyrometer_keeps : gives (.pyrometerBadFrame [⟨1, false⟩, ⟨0xA5, false⟩, ⟨0, false⟩, ⟨3, false⟩]) measuring
    (fun t => decide (t = hunting)) = true := by decide +kernel
theorem test_pyrometer_goesOn : gives (.pyrometerBadFrame [⟨232, false⟩, ⟨144, false⟩, ⟨0, false⟩, ⟨0, false⟩]) hunting
    (fun t => decide (t.push.history = [⟨9, 7, 9, .delivered, some 1000, some 7⟩]) && decide (t.lines.pyro = [])) = true := by
  decide +kernel

theorem test_hyp_Measuring_kept : hunting.lines.pyro = ⟨0xA5, false⟩ :: [⟨0, false⟩, ⟨3, false⟩] ∧
    Passes [⟨0, false⟩, ⟨3, false⟩, ⟨232, false⟩, ⟨144, false⟩] 0 1000 ∧
    (∀ k temp, ¬ Passes [⟨0, false⟩, ⟨0xA5, false⟩, ⟨232, false⟩, ⟨0, false⟩] k temp) ∧ measuring.lines.pyro = [] := by
  refine ⟨rfl, ⟨_, _, _, _, rfl, by decide, by decide, rfl, by decide, rfl, by decide⟩, ?_, rfl⟩
  rintro k temp ⟨st, hi, lo, sum, h, -, hs, -⟩
  cases h
  exact absurd hs (by decide)

theorem test_loadFailed_pastEnd : imageEnd restarted.loader.eeprom 4097 0 = (standby.capturedImage geo).length ∧
    restarted.loadOutcome.isSome = true ∧
    gives (.loadFailed (some (standby.capturedImage geo).length)) restarted (fun t => decide (t = restarted)) = true ∧
    gives (.loadFailed (some ((standby.capturedImage geo).length - 1))) restarted
      (fun t => decide (t.line.mode = .unconfigured .loadError)) = true := by decide +kernel

theorem test_reset_cutsStore : gives (.hardwareReset 8193) storing (fun t =>
    decide (t.loader.eeprom = [⟨0, 0⟩, ⟨1, 5⟩])) = true := by decide +kernel

theorem test_expiredDeadline : (OrderSlot.expired 7 1).deadline = some 0 := rfl

theorem test_sending_discards : gives (.sendNextTransaction [1, 0x81, 0, 0, 0]) (queued ⟨.u1, .setOutput 200, .control⟩ heating)
    (fun t => decide (t.link.inFlight.map Transaction.entry = some ⟨.u1, .setOutput 200, .control⟩) &&
      decide (t.channels.u1.timeouts = 0) && decide (t.link.driver = false)) = true := by decide +kernel
theorem test_notSending_hears : gives (.sendNextTransaction [1, 0x81, 0, 0, 0]) polling
    (fun t => decide (t.channels.u1.timeouts = 1) && decide (t.link.inFlight = none)) = true := by decide +kernel

theorem test_hyp_SendNext_received : polling.link.driver = false ∧ ([1, 0x81] : List Byte) ≠ [] ∧
    ({ polling with link := { polling.link with driver := true } }).link.inFlight ≠ none := ⟨rfl, nofun, nofun⟩

/-- The first SET_OUTPUT of a STARTING channel timed out and is in flight again. -/
def sentAgain : State :=
  inFlight ⟨.u1, .setOutput 300, .control⟩ (withChannel .u1
    { heating.channels.u1 with state := .starting, accepted := 0, commanded := some 300, sent := true, timedOut := true } heating)

theorem test_timeout_marks : gives .replyTimeout (inFlight ⟨.u1, .setOutput 300, .control⟩ (withChannel .u1
    { sentAgain.channels.u1 with timedOut := false } heating)) (fun t => t.channels.u1.timedOut) = true := by decide +kernel
theorem test_reject_afterTimeout : gives (.reject 1 .interlock) sentAgain (fun t =>
    decide (t.channels.u1.state = .stopping) && decide (t.channels.u1.accepted = 300) &&
    decide (t.channels.u1.pendingCause = some .rejected)) = true := by decide +kernel
theorem test_reject_behindWelded : gives (.reject 1 .interlock)
    (inFlight ⟨.u1, .setOutput 200, .control⟩ (withChannel .u1 { lastTry.channels.u1 with pendingWelded := true } heating))
    (fun t => decide (t.channels.u1.pendingCause = none) && decide (t.channels.u1.lateCause = some .rejected) &&
      decide (t.channels.u1.afterOpen = .locked .idle)) = true := by decide +kernel
theorem test_reject_stopWhileClearing : gives (.reject 1 .busy)
    (inFlight ⟨.u1, .stopOutput, .control⟩ (withChannel .u1 { stopping.channels.u1 with clearing := true } stopping))
    (fun t => decide (t.channels.u1.retry.map RetryWait.command = some .stopOutput)) = true := by decide +kernel
theorem test_reject_startStop : gives (.reject 1 .busy)
    (inFlight ⟨.u1, .stopOutput, .startStop⟩ { standby with link := { standby.link with
      startMark := standby.link.startMark.set .u1 true, discovery := standby.link.discovery.set .u1 .wanted } })
    (fun t => decide (t.link.startMark.u1 = false) && decide (t.link.discovery.u1 = .queued) &&
      decide (t.link.queue = [⟨.u1, .readState, .discovery⟩])) = true := by decide +kernel

/-- A clear sequence reads a channel in FAULTED(NO_STOP) that still has its coil. -/
def clearingNoStop : State :=
  inFlight ⟨.u1, .readState, .clear⟩ (withChannel .u1
    { heating.channels.u1 with state := .faulted .noStop, clearing := true } (inMode .faultStop heating))

theorem test_clear_noStop_off : gives (.state 1 ⟨.off, 100, 0, none⟩) clearingNoStop (fun t =>
    decide (t.channels.u1.state = .opening) && decide (t.channels.u1.clearing = false)) = true := by decide +kernel
theorem test_clear_noStop_on : gives (.state 1 ⟨.on, 100, 30, none⟩) clearingNoStop (fun t =>
    decide (t.channels.u1.state = .faulted .noStop) && t.line.stopCauses.noStop) = true := by decide +kernel

theorem test_hyp_StateReplies_noStop : clearingNoStop.link.inFlight = some ⟨⟨.u1, .readState, .clear⟩, 20, .kbit115, false⟩ ∧
    (clearingNoStop.channels.get .u1).coil = some 1 ∧ (clearingNoStop.channels.get .u1).baseline = some 100 ∧
    clearingNoStop.line.mode.noLine = false ∧ clearingNoStop.line.mode.heating = false ∧
    (∀ y ∈ clearingNoStop.link.rounds, y.forStart = false) := by decide

theorem test_dropFails : gives (.feedbackOpen .u1 1) { opening with matrix := opening.matrix.map fun x =>
      if x.state = .opening then { x with drop := true } else x } (fun t =>
    decide ((t.crosspoint .u1 1).map Crosspoint.state = some .failOpen) && t.ports.supervisor.flags.crosspointFault) = true := by
  decide +kernel
theorem test_opens_welded : gives (.feedbackOpen .u1 1) (withChannel .u1
      { opening.channels.u1 with pendingWelded := true, pendingCause := some .linkLost } opening) (fun t =>
    decide (t.channels.u1.state = .locked (.faulted .linkLost))) = true := by decide +kernel

theorem test_badReply_discarded : gives (.badReply [1, 0x81, 0, 0, 0])
    { heating with link := { heating.link with inFlight := some ⟨⟨.u1, .readState, .poll⟩, 20, .kbit115, true⟩ } } (fun t =>
    decide (t.channels.u1.timeouts = 0) && decide (t.link.quiet = .running 20)) = true := by decide +kernel

/-- Two candidates whose floors do not both fit below 20 kW. -/
def overcommitted : State :=
  { withChannel .u2 { idleChannel with state := .energized, coil := some 2, grantSetpoint := 200, accepted := 200 } heating with
    alloc := { heating.alloc with grants := ⟨some ⟨1, 1, false⟩, some ⟨2, 2, false⟩, none, none⟩ }
    matrix := [heating.matrix.headD (open_ .u1 1), open_ .u1 2, { open_ .u2 2 with drive := true, state := .closed }] }

/-- U1 closes its crosspoint in the wind-down of a warm restart, a limit of 200 kW pending. -/
def restartWaits : State :=
  { closing with
    line := { LineCtl.reset with mode := .stopping .standby, restartMark := true }
    alloc := { closing.alloc with pendingLimit := some 200, grants := ⟨some ⟨1, 1, true⟩, none, none, none⟩ } }

/-- The crosspoint that fails to close ends the wind-down; the pending limit takes effect before the restart clears it
(R71, R182). -/
theorem test_feedbackTimeout_restart : committedPower restartWaits = 300 ∧
    gives (.feedbackTimeout .u1 1) restartWaits (fun t => decide (t.line.mode = .standby) && !t.line.restartMark &&
      decide (t.alloc.effective = 200) && decide (t.alloc.pendingLimit = none)) = true := by decide +kernel

theorem test_shiftedBytes : (Shifted.mk 7 (some (.held ⟨0x30, .accepted⟩))).bytes 6 =
    [7, 0x01, 0x30, byteOf (crc8 [0x01, 0x30]), 0xFF, 0xFF] ∧ (Shifted.mk 7 none).bytes 2 = [7, 0xFF] := by decide +kernel

theorem test_coilReport : heating.coilReport 1 ⟨.assigned .u1, false, 1080, some ⟨3, .heating⟩⟩ =
    ⟨⟨1, 4, 400⟩, .assigned .u1, false, 1080, 3, some .heating, some 2, 1, 0⟩ := by decide +kernel

/-! ## The allocator in the statements' words -/

/-- C1 has asked for power and is in no queue; both channels are IDLE. -/
def asking : State :=
  { withSlots loaded standby with
    alloc := { standby.alloc with coils :=
      [{ state := .unpowered, disable := false, demand := 1080, lead := some ⟨3, .heating⟩ },
        { state := .unpowered, disable := false, demand := 0, lead := none }] } }

theorem test_start_grants : gives (.start .supervisor) asking (fun t =>
    decide (t.alloc.grants.u1 = some ⟨1, 1, false⟩) && decide (t.alloc.grantCounter = 2) &&
    decide (t.channels.u1.state = .closing) && decide (t.channels.u1.grantSetpoint = 300) &&
    decide ((t.crosspoint .u1 1).map Crosspoint.timer = some (.running 150)) && decide (t.channels.u2 = idleChannel)) = true := by
  decide +kernel

/-- The line second reports C1 for the first time in RUN: it joins Q2 and a pass grants it. -/
theorem test_lineSecond_joins : gives .lineSecond (inMode .run { asking with alloc := standby.alloc }) (fun t =>
    decide ((t.coil 1).map Coil.state = some (.assigned .u1)) && decide (t.coil 1 |>.map Coil.demand |>.any (0 < ·)))
    = true := by decide +kernel

/-- The billets of C1 are gone: the line second reports demand 0, and the grant of C1 is released. -/
theorem test_lineSecond_releases : gives .lineSecond (withSlots gaps heating) (fun t =>
    decide (t.alloc.grants.u1 = some ⟨1, 1, true⟩) && decide (t.coilDemand 1 = 0) &&
    decide ((t.coil 1).map Coil.state = some (.assigned .u1))) = true := by decide +kernel

theorem test_hyp_CoilDemand_reports : heating.track.lineSecond ≠ .stopped ∧ heating.track.verified = true ∧
    (∀ j c u, (withSlots gaps standby).coil j = some c → c.state ≠ .assigned u) ∧
    heating.coil 1 = some ⟨.assigned .u1, false, 1080, some ⟨3, .heating⟩⟩ ∧ heating.channels.u1.state = .energized ∧
    heating.alloc.grants.get .u1 = some ⟨1, 1, false⟩ ∧
    someJoined (inMode .run { asking with alloc := standby.alloc })
      (afterReports (inMode .run { asking with alloc := standby.alloc })) = true := by
  refine ⟨nofun, rfl, ?_, rfl, rfl, rfl, by decide +kernel⟩
  intro j c u h
  match j with
  | 0 => exact nomatch h
  | 1 => cases h; nofun
  | 2 => cases h; nofun
  | k + 3 => exact nomatch h

theorem test_hyp_EnableCoil_joins : joinsAs (inMode .run asking) 1 = some 2 ∧
    (withCoil (inMode .run asking) 1 ⟨.disabled, true, 1080, some ⟨3, .heating⟩⟩).coil 1 =
      some ⟨.disabled, true, 1080, some ⟨3, .heating⟩⟩ ∧
    gives (.enableCoil .supervisor 1) (withCoil (inMode .run asking) 1 ⟨.disabled, true, 1080, some ⟨3, .heating⟩⟩)
      (fun t => decide (t.alloc.grants.u1 = some ⟨1, 1, false⟩)) = true := by decide +kernel

/-- A raise of the line limit brings a pass: C1 waits in Q2 for headroom. -/
theorem test_limit_grants : gives (.setLineLimit .supervisor 1000) (inMode .run { asking with alloc := { asking.alloc with
      coils := asking.alloc.coils.set 0 ⟨.queued 2, false, 1080, some ⟨3, .heating⟩⟩, queues := ⟨[], [], [1], []⟩
      effective := 0 } }) (fun t =>
    decide (t.alloc.grants.u1 = some ⟨1, 1, false⟩) && decide (t.alloc.queues = ⟨[], [], [], []⟩)) = true := by decide +kernel

/-- C1, whose demand lies below the threshold in force, joins under the new one and is granted; one READY billet meets the new
high mark, and SUPPLY_CHANGED is raised. -/
def lowThreshold : LimitSettings := { LimitSettings.default with threshold := 1080, lowMark := 0, highMark := 1 }

def belowThreshold : State :=
  { inMode .run asking with settings := { asking.settings with limits := { LimitSettings.default with threshold := 1081 } } }

theorem test_setLineLimitLong_joins : gives (.setLineLimitLong .supervisor 1000 lowThreshold) belowThreshold (fun t =>
    decide (t.alloc.grants.u1 = some ⟨1, 1, false⟩) && decide ((t.coil 1).map Coil.state = some (.assigned .u1)) &&
    decide (t.orders.supply = .ok) && t.ports.press.flags.supplyChanged) = true := by decide +kernel

/-- With the limit below committed power C2 joins and stays queued: no pass is made while the limit is pending. -/
def pendingJoin : State :=
  { heating with alloc := { heating.alloc with coils := heating.alloc.coils.set 1 ⟨.unpowered, false, 49, some ⟨7, .heating⟩⟩ } }

theorem test_setLineLimitLong_pending : gives (.setLineLimitLong .supervisor 200 { LimitSettings.default with threshold := 49 })
    pendingJoin (fun t => decide (t.alloc.pendingLimit = some 200) && decide ((t.coil 2).map Coil.state = some (.queued 3)) &&
      decide (t.alloc.queues = ⟨[], [], [], [2]⟩)) = true := by decide +kernel

theorem test_hyp_LineLimit_long : Idle belowThreshold .supervisor ∧ LimitSettingsOk lowThreshold ∧ LimitOk 1000 ∧
    belowThreshold.line.mode ≠ .loading ∧ belowThreshold.loader.store = .idle ∧ committedPower belowThreshold ≤ 1000 ∧
    joinsAs belowThreshold 1 = none ∧
    joinsAs { belowThreshold with settings := { belowThreshold.settings with limits := lowThreshold } } 1 = some 2 ∧
    200 < committedPower pendingJoin ∧ challenged.coil 2 = some ⟨.queued 3, false, 1800, some ⟨7, .heating⟩⟩ := by
  unfold Idle LimitOk LimitSettingsOk; decide +kernel

/-- A coil that stands in no queue meets the premise of the clauses that LOCK it or leave it ASSIGNED. -/
theorem test_hyp_queuedOnly : standby.coil 1 = some ⟨.unpowered, false, 0, none⟩ ∧
    QueuedOnly standby 1 ⟨.unpowered, false, 0, none⟩ ∧
    QueuedOnly heating 1 ⟨.assigned .u1, false, 1080, some ⟨3, .heating⟩⟩ ∧
    opening.coil 1 = some ⟨.assigned .u1, false, 1080, some ⟨3, .heating⟩⟩ ∧
    QueuedOnly opening 1 ⟨.assigned .u1, false, 1080, some ⟨3, .heating⟩⟩ := by
  refine ⟨rfl, ?_, ?_, rfl, ?_⟩ <;> intro k hk h <;>
    match k, hk, h with
    | 0, _, h | 1, _, h | 2, _, h | 3, _, h => exact absurd h (by decide +kernel)

/-- U1 opens its crosspoint in the wind-down of a warm restart. -/
def lastOpens : State :=
  { opening with line := { LineCtl.reset with mode := .stopping .standby, restartMark := true } }

theorem test_hyp_WarmRestart_ends : lastOpens.line.mode = .stopping .standby ∧ lastOpens.line.restartMark = true ∧
    lastOpens.lines.lineStop = false ∧ (∀ r ∈ lastOpens.link.rounds, r.forStart = false) ∧
    (lastOpens.crosspoint .u1 1).map Crosspoint.state = some .opening ∧ (lastOpens.channels.get .u1).state = .opening ∧
    (lastOpens.channels.get .u1).coil = some 1 ∧ (∀ v, v ≠ .u1 → (lastOpens.channels.get v).state.working = false) ∧
    gives (.feedbackOpen .u1 1) lastOpens (fun t => decide (t.line.mode = .standby) && !t.line.restartMark &&
      decide (t.track.slots = List.replicate 8 .undeclared)) = true := by
  refine ⟨rfl, rfl, rfl, by decide, by decide +kernel, rfl, rfl, fun v hv => ?_, by decide +kernel⟩
  cases v <;> first | exact absurd rfl hv | rfl

theorem test_stoppingEnds : gives (.feedbackOpen .u1 1) (inMode (.stopping .purge) opening) (fun t =>
      decide (t.line.mode = .purge)) = true ∧
    gives (.feedbackOpen .u1 1) (inMode (.stopping .purge) (withSlots gaps opening)) (fun t =>
      decide (t.line.mode = .standby)) = true ∧
    gives (.feedbackOpen .u1 1) (inMode (.stopping .standby) (withChannel .u2 { idleChannel with state := .stopping } opening))
      (fun t => decide (t.line.mode = .stopping .standby)) = true := by decide +kernel

/-- U1/C2 fails closed while U1 heats C1 (R98). -/
theorem test_weldedElsewhere : heating.channels.u1.coil = some 1 ∧ (2 : Nat) ≠ 1 ∧
    (heating.crosspoint .u1 2).map Crosspoint.state = some .opened ∧
    gives (.feedbackClosed .u1 2) heating (fun t => t.channels.u1.pendingWelded && decide (t.line.mode = .faultStop) &&
      t.line.stopCauses.welded && decide (t.alloc.grants.u1 = some ⟨1, 1, true⟩) &&
      decide ((t.coil 2).map Coil.state = some .locked) && decide (t.channels.u1.state = .stopping)) = true := by
  decide +kernel

/-- The added crosspoint U2/C1 reads closed: C1 and U2 are LOCKED (R202). -/
theorem test_setReach_locks : gives (.setReach .supervisor [⟨1, 1⟩, ⟨1, 2⟩, ⟨2, 1⟩, ⟨2, 2⟩])
    { standby with lines := { standby.lines with feedback := standby.lines.feedback.set .u2 (true :: List.replicate 11 false) } }
    (fun t => decide (t.channels.u2.state = .locked .idle) && decide ((t.coil 1).map Coil.state = some .locked) &&
      decide (t.channels.u1 = idleChannel)) = true := by decide +kernel

/-- One READY billet in the front window is at the low mark 1 and below the high mark 2; two are at the high mark. -/
theorem test_supply : supplyIn run = 1 ∧ indicatorIn run .ok = .ok ∧ indicatorIn run .short = .short ∧
    indicatorIn (withSlots [.gap, .gap, .gap, .gap, .gap, .gap, .billet readyBillet, .billet readyBillet] run) .short = .ok ∧
    indicatorIn (withSlots gaps run) .ok = .short ∧ indicatorIn standby .ok = .short := by decide +kernel

theorem test_hyp_ReductionPlan_drops : Idle overcommitted .supervisor ∧ LimitOk 20 ∧ 20 < committedPower overcommitted ∧
    Candidate overcommitted .u1 ⟨1, 1, false⟩ ∧ Candidate overcommitted .u2 ⟨2, 2, false⟩ ∧
    20 < overCandidates overcommitted (floorFor overcommitted) ∧
    grantClass overcommitted ⟨2, 2, false⟩ < grantClass overcommitted ⟨1, 1, false⟩ ∧
    gives (.setLineLimit .supervisor 20) overcommitted (fun t =>
      decide (t.alloc.grants.u2 = some ⟨2, 2, true⟩) && decide (t.alloc.grants.u1 = some ⟨1, 1, false⟩) &&
      decide (t.link.queue = [⟨.u2, .stopOutput, .control⟩, ⟨.u1, .setOutput 20, .control⟩])) = true := by
  unfold Idle Candidate LimitOk; decide +kernel

end Sys2Proof.Tests
end

