-- ==== Sys2Proof/Proofs/CorrectionLearning.lean ====
section
/-! The learning update of a measured reading (R43 to R45): what the rest of its event leaves of the recipe table and of
LEARNING_LIMIT, and what the update does to the two. -/

namespace Sys2Proof.Machine

/-- All that a learning update can change: the recipe table and the supervisor port's LEARNING_LIMIT flag. -/
def State.learningView (s : State) : RecipeTable × Bool := (s.recipes, s.ports.supervisor.flags.learningLimit)

theorem State.learningView_inj {s t : State} (h : s.learningView = t.learningView) :
    s.recipes = t.recipes ∧ s.ports.supervisor.flags.learningLimit = t.ports.supervisor.flags.learningLimit :=
  Prod.mk.inj h

theorem State.recipe_of_entry {s : State} {i : Nat} {r : Recipe} (h : s.recipes.entries[i]? = some r) : s.recipe i = r := by
  simp [State.recipe, h]

theorem setEntry_of_entry {tab : RecipeTable} {i : Nat} {r : Recipe} (h : tab.entries[i]? = some r) (f : Recipe → Recipe) :
    setEntry tab i f = { tab with entries := tab.entries.set i (f r) } := by
  have : Inhabited Recipe := ⟨r⟩
  rw [setEntry, List.modify_eq_set, h, Option.getD_some]

theorem Billet.servable_of_ready {b : Billet} (hr : b.isReady = true) (hm : b.marked = false) : b.servable = true := by
  simp [Billet.servable, hr, hm]

/-! ## The update itself -/

section
variable {e : Ev} {i temp : Nat} {r : Recipe} {c : Int} (hr : e.s.recipes.entries[i]? = some r)
include hr

/-- Learning off, the entry's block set, or a deviation within the dead band: no update. -/
theorem Ev.learn_inactive
    (h : ¬ (e.s.recipes.learning.on = true ∧ r.data.learningBlock = false) ∨
      learnedCorrection e.s.recipes.learning r.data temp = none) : e.learn i temp = e := by
  simp only [Ev.learn, State.recipe_of_entry hr]
  split
  · rename_i hactive
    rcases h with hinactive | hnone
    · exact absurd (by simpa using hactive) hinactive
    · simp [hnone]
  · rfl

variable (hactive : e.s.recipes.learning.on = true ∧ r.data.learningBlock = false)
  (hc : learnedCorrection e.s.recipes.learning r.data temp = some c)
include hactive hc

theorem Ev.learn_recipes :
    (e.learn i temp).s.recipes =
      { e.s.recipes with entries := e.s.recipes.entries.set i ⟨r.state, { r.data with correction := c }⟩ } := by
  obtain ⟨hon, hblock⟩ := hactive
  have hlearn : (e.learn i temp).s.recipes =
      setEntry e.s.recipes i fun x => { x with data := { x.data with correction := c } } := by
    simp only [Ev.learn, State.recipe_of_entry hr, hon, hblock, hc, Bool.not_false, Bool.and_self, if_true]
    split <;> rfl
  exact hlearn.trans (setEntry_of_entry hr _)

theorem Ev.learn_learningLimit :
    (e.learn i temp).s.ports.supervisor.flags.learningLimit =
      (decide (c = (e.s.recipes.learning.limit : Int) ∨ c = -(e.s.recipes.learning.limit : Int)) ||
        e.s.ports.supervisor.flags.learningLimit) := by
  obtain ⟨hon, hblock⟩ := hactive
  simp only [Ev.learn, State.recipe_of_entry hr, hon, hblock, hc, Bool.not_false, Bool.and_self, if_true]
  split
  · rename_i hlimit
    simp only [hlimit, decide_true, Bool.true_or]
    rfl
  · rename_i hlimit
    simp only [hlimit, decide_false, Bool.false_or]
    rfl

end

/-! ## What the rest of the event leaves of the two -/

@[simp] theorem Ev.returnSlot_learningView (e : Ev) (n : SlotName) : (e.returnSlot n).s.learningView = e.s.learningView := by
  simp only [Ev.returnSlot]
  (repeat' split) <;> rfl

@[simp] theorem Ev.fillSlot_learningView (e : Ev) (n : SlotName) (x : OrderResult) :
    (e.fillSlot n x).s.learningView = e.s.learningView := by
  simp only [Ev.fillSlot]
  split <;> rfl

@[simp] theorem Ev.settleOrder_learningView (e : Ev) (b : Billet) (outcome : ClassOutcome) (temperature : Option Nat)
    (served : Option Served) (push : Nat) :
    (e.settleOrder b outcome temperature served push).s.learningView = e.s.learningView := by
  simp only [Ev.settleOrder]
  split
  · rfl
  · split <;> simp

/-- A classification with a reading of a READY, unmarked billet is, to the recipe table and LEARNING_LIMIT, the learning
update alone (R43, R144). -/
theorem Ev.classify_learningView (e : Ev) {b : Billet} (hb : b.servable = true) (outcome : ClassOutcome) (temp : Nat)
    (served : Option Served) (push : Nat) :
    ∃ e' : Ev, e'.s.learningView = e.s.learningView ∧
      (e.classify b outcome (some temp) served push).s.learningView = (e'.learn b.recipe temp).s.learningView := by
  simp only [Ev.classify, Ev.feedLearning, hb, if_true]
  refine ⟨Ev.settleOrder _ b outcome (some temp) served push, ?_, rfl⟩
  exact Ev.settleOrder_learningView _ b outcome (some temp) served push

theorem State.channels_of_offOrders {s t : State} (h : s.offOrders = t.offOrders) : s.channels = t.channels := by
  simp only [State.offOrders, Prod.mk.injEq] at h
  obtain ⟨-, -, -, -, -, hchannels, -⟩ := h
  exact hchannels

/-- The end of an event that left the channels as they were. -/
theorem Ev.finish_learningView (e : Ev) (before : State) (h : e.s.channels = before.channels) :
    (e.finish before).learningView = e.s.learningView := by
  obtain ⟨-, -, -, hrecipes, hports, -⟩ :=
    Ev.finish_keeps e before (.inr fun u hu => by simpa [State.channel, h] using hu)
  have hsup : (e.finish before).ports.supervisor = e.s.ports.supervisor := hports .supervisor (by decide)
  simp only [State.learningView, hrecipes, hsup]

/-- A VALID reading classifies the measuring billet, and the event ends (R140, R141). -/
theorem exec_validReading {s : State} {m : Measuring} {temp : Nat} (hm : s.push.station = some m) (ht : temp ≤ 2000) :
    exec (.pyrometerReading .valid temp) s =
      .next ((((Ev.of s).keepPyro []).classifyMeasured m (outcomeOfReading (s.recipeOf m.billet) temp) (some temp)).finish
        s) := by
  have hstation : ((Ev.of s).keepPyro []).s.push.station = some m := hm
  change Host.Outcome.next (s.event _) = _
  simp only [State.event, ht, if_true, Ev.readingTaken, hstation]
  rfl

/-- To the recipe table and LEARNING_LIMIT, a VALID reading of a READY, unmarked billet is its learning update alone. -/
theorem exec_validReading_learningView {s t : State} {m : Measuring} {temp : Nat} (hm : s.push.station = some m)
    (ht : temp ≤ 2000) (hb : m.billet.servable = true) (hexec : exec (.pyrometerReading .valid temp) s = .next t) :
    ∃ e : Ev, e.s.learningView = s.learningView ∧ t.learningView = (e.learn m.billet.recipe temp).s.learningView := by
  rw [exec_validReading hm ht, Host.Outcome.next.injEq] at hexec
  subst hexec
  obtain ⟨e, hbefore, hlearn⟩ := Ev.classify_learningView ((Ev.of s).keepPyro []) hb
    (outcomeOfReading (s.recipeOf m.billet) temp) temp (some m.served) m.push
  have hchannels := State.channels_of_offOrders (Ev.classifyMeasured_offOrders ((Ev.of s).keepPyro []) m
    (outcomeOfReading (s.recipeOf m.billet) temp) (some temp))
  exact ⟨e, hbefore, (Ev.finish_learningView _ s hchannels).trans hlearn⟩

/-! ## The statement -/

/-- The correction as stated from R44 and R45 is the model's. -/
theorem updated_eq_learnedCorrection (l : LearningSettings) (d : RecipeData) (temp : Nat) :
    Stated.updated l d temp = learnedCorrection l d temp := by
  have hclamp : ∀ c : Int, (if (l.limit : Int) < c then (l.limit : Int) else if c < -(l.limit : Int) then -l.limit else c) =
      clampCorrection l.limit c := by
    intro c
    simp only [clampCorrection]
    omega
  simp only [Stated.updated, learnedCorrection, hclamp, gt_iff_lt]

/-- Settles O39: to the recipe table and LEARNING_LIMIT the event is the update of the billet's entry alone, and the update is
given by its two cases. -/
theorem readingUpdatesTheCorrection : Obligations.ReadingUpdatesTheCorrection := by
  unfold Obligations.ReadingUpdatesTheCorrection
  intro s t m r temp hm ht hready hmarked hr hexec
  obtain ⟨e, hbefore, hafter⟩ :=
    exec_validReading_learningView hm ht (Billet.servable_of_ready hready hmarked) hexec
  obtain ⟨hrecipes, hflag⟩ := State.learningView_inj hbefore
  obtain ⟨htrecipes, htflag⟩ := State.learningView_inj hafter
  simp only [updated_eq_learnedCorrection]
  rw [← hrecipes] at hr ⊢
  constructor
  · intro hinactive
    rw [htrecipes, Ev.learn_inactive hr hinactive]
  · intro c hactive hc
    have hlimit := htflag.trans (Ev.learn_learningLimit hr hactive hc)
    refine ⟨?_, fun hat => ?_, fun hne hneNeg => ?_⟩
    · rw [htrecipes, Ev.learn_recipes hr hactive hc, Stated.withEntry, ← hrecipes]
    · change t.ports.supervisor.flags.learningLimit = true
      rw [hlimit, decide_eq_true hat, Bool.true_or]
    · rw [hlimit, decide_eq_false (not_or.mpr ⟨hne, hneNeg⟩), Bool.false_or, hflag]

end Sys2Proof.Machine
end

