-- ==== Sys2Proof/Proofs/HistoryRead.lean ====
section
/-! READ_HISTORY (R147), and with it what every request does that its owning block answers without a change of its own
(R189): the state after it is `answered`. -/

namespace Sys2Proof.Machine

open Sys2Proof.Stated

/-! ## A request answered with nothing changed (R164, R186, R189) -/

/-- The state in which the owning block finds a request on an IDLE port (R189). -/
def State.inHand (s : State) (p : Port) (code : Byte) : State :=
  ((s.shiftOut p none).pressHeard p).modPort p fun x => { x with state := .processing code }

@[simp] theorem State.pressHeard_line (s : State) (p : Port) : (s.pressHeard p).line = s.line := by cases p <;> rfl
@[simp] theorem State.pressHeard_push (s : State) (p : Port) : (s.pressHeard p).push = s.push := by cases p <;> rfl

@[simp] theorem State.inHand_line (s : State) (p : Port) (code : Byte) : (s.inHand p code).line = s.line := by
  simp [State.inHand, State.shiftOut]

@[simp] theorem State.inHand_push (s : State) (p : Port) (code : Byte) : (s.inHand p code).push = s.push := by
  simp [State.inHand, State.shiftOut]

/-- The silence timer restarted if it runs, by the two cases of the timer. -/
theorem State.pressHeard_eq (s : State) (p : Port) : s.pressHeard p = { s with orders := ordersHeard s p } := by
  cases p with
  | press =>
    cases h : s.orders.silence <;>
      simp [State.pressHeard, ordersHeard, OrderMgr.restartSilence, Timer.isRunning, h]
  | feeder => rfl
  | supervisor => rfl

/-- What a transaction takes at its assertion is, in the statements' words, what it has taken at its end. -/
theorem PortRec.opened_eq_taken (s : State) (p : Port) : (s.ports.get p).opened p = taken s p := by
  cases h : (s.ports.get p).select <;> simp [PortRec.opened, taken, h]

/-- A request on an IDLE port that the owning block answers without a change of its own leaves the answer held, and the
`used` free values taken. -/
theorem State.request_answered {s : State} {p : Port} {code : Byte} {take : State → Taken} {body : ResponseBody} {used : Nat}
    (hidle : Idle s p) (hrole : permitted p code.toNat = true) (htake : take (s.inHand p code) = .answer body used) :
    s.request p code take = answered { s with free := s.free + used } p code body := by
  obtain ⟨hstate, hheeded⟩ := hidle
  have htaken : s.request p code take =
      { (s.shiftOut p none).pressHeard p with free := ((s.shiftOut p none).pressHeard p).free + used }.hold p code body := by
    rw [State.request_taken s p code take hheeded hstate hrole, State.takeRequest, ← State.inHand, htake]
  have hshifted : s.shiftOut p none = { s with ports := s.ports.set p (shiftedOut s p none) } := by
    simp only [State.shiftOut, State.modPort, shiftedOut, PortRec.opened_eq_taken]
  rw [htaken, hshifted, State.pressHeard_eq]
  simp only [State.hold, State.modPort, answered, PerPort.set_set, PerPort.get_set_same]
  rfl

/-! ## The read (R147) -/

theorem exec_readHistory (p : Port) (age : Nat) (s : State) :
    exec (.readHistory p age) s = .next (s.request p 0x05 (takeReadHistory age)) := rfl

/-- READ_HISTORY is open to every port. -/
theorem permitted_readHistory (p : Port) : permitted p (0x05 : Byte).toNat = true := by cases p <;> decide

/-- READ_HISTORY takes no free value: its answer is what the push controller and the mode, which the port leaves, give. -/
theorem exec_readHistory_answered {s : State} {p : Port} {age : Nat} {body : ResponseBody} (hidle : Idle s p)
    (htake : takeReadHistory age s = .answer body 0) :
    exec (.readHistory p age) s = .next (answered s p 0x05 body) := by
  have hinHand : takeReadHistory age (s.inHand p 0x05) = takeReadHistory age s := by
    simp only [takeReadHistory, State.inHand_line, State.inHand_push]
  rw [exec_readHistory, State.request_answered hidle (permitted_readHistory p) (hinHand.trans htake)]
  rfl

theorem takeReadHistory_of_ageAbove {s : State} {age : Nat} (h : 15 < age) :
    takeReadHistory age s = .answer (.refused .outOfRange) 0 := if_pos h

theorem takeReadHistory_of_loading {s : State} {age : Nat} (h : age ≤ 15) (hmode : s.line.mode = .loading) :
    takeReadHistory age s = .answer (.refused .wrongMode) 0 := by
  rw [takeReadHistory, if_neg (Nat.not_lt.mpr h), if_pos hmode, Taken.refuse]

theorem takeReadHistory_of_open {s : State} {age : Nat} (h : age ≤ 15) (hmode : s.line.mode ≠ .loading) :
    takeReadHistory age s = .answer (.data
      (.history s.push.history.length s.push.classCount ((s.push.history.reverse.drop age).take 3))) 0 := by
  rw [takeReadHistory, if_neg (Nat.not_lt.mpr h), if_neg hmode, Taken.read]

/-- Settles O17: the read is answered without a change, and its answer is given by its three cases. -/
theorem historyRead : Obligations.HistoryRead := by
  unfold Obligations.HistoryRead
  intro s p age hidle
  refine ⟨fun hage => ?_, fun hage hmode => ?_, fun hage hmode => ?_⟩
  · exact exec_readHistory_answered hidle (takeReadHistory_of_ageAbove hage)
  · exact exec_readHistory_answered hidle (takeReadHistory_of_loading hage hmode)
  · exact exec_readHistory_answered hidle (takeReadHistory_of_open hage hmode)

end Sys2Proof.Machine
end

