-- ==== Sys2Proof/Proofs/PressOrders.lean ====
section
/-! The press's order requests (R151, R156, R157), and with them what every request does that its owning block takes with a
change that leaves the channels and the effective limit as they were (R189): the change, the answer held, and, if one is
due, one push evaluation. -/

namespace Sys2Proof.Machine

open Sys2Proof.Stated

/-! ## The held answer beside an event and an evaluation -/

/-- The two changes are of different items of the port records. -/
theorem State.hold_raise (s : State) (p q : Port) (k : EventKind) (code : Byte) (body : ResponseBody) :
    (raise s q k).hold p code body = raise (s.hold p code body) q k := by
  cases p <;> cases q <;> rfl

/-- A push wanted with the cradle empty, signalled before. -/
theorem Ev.evaluate_cradle_waiting {e : Ev} (h : e.s.wantedPush = .cradle) (hwait : e.s.push.cradleWait = true) :
    e.evaluate = e := by
  simp only [Ev.evaluate, h, hwait, if_true]

/-- A push wanted with the cradle empty, not yet signalled. -/
theorem Ev.evaluate_cradle {e : Ev} (h : e.s.wantedPush = .cradle) (hwait : e.s.push.cradleWait = false) :
    e.evaluate = (e.modPush fun q => { q with cradleWait := true }).raise .feeder .cradleWanted := by
  simp only [Ev.evaluate, h, hwait, Bool.false_eq_true, if_false]

theorem Ev.evaluate_push {e : Ev} {kind : PushKind} {origin : Origin} {claim : Option SlotName}
    (h : e.s.wantedPush = .push kind origin claim) : e.evaluate = e.orderPush kind origin claim := by
  simp only [Ev.evaluate, h]

/-- An evaluation neither reads nor changes what a port holds, so the answer may be stored before it. -/
theorem Ev.evaluate_hold (e : Ev) (p : Port) (code : Byte) (body : ResponseBody) :
    e.evaluate.s.hold p code body = evaluated (e.s.hold p code body) := by
  have hsame : (Ev.of (e.s.hold p code body)).s.wantedPush = e.s.wantedPush := rfl
  simp only [evaluated]
  cases hwant : e.s.wantedPush with
  | nothing =>
    rw [Ev.evaluate_nothing e hwant, Ev.evaluate_nothing _ (hsame.trans hwant)]
    rfl
  | cradle =>
    cases hwait : e.s.push.cradleWait with
    | true =>
      rw [Ev.evaluate_cradle_waiting hwant hwait, Ev.evaluate_cradle_waiting (hsame.trans hwant) hwait]
      rfl
    | false =>
      rw [Ev.evaluate_cradle hwant hwait, Ev.evaluate_cradle (hsame.trans hwant) hwait]
      exact State.hold_raise _ p .feeder .cradleWanted code body
  | push kind origin claim =>
    rw [Ev.evaluate_push hwant, Ev.evaluate_push (hsame.trans hwant)]
    cases claim <;> exact State.hold_raise _ p .feeder .pushOrdered code body

/-! ## A request answered with a change (R189) -/

/-- The state in which a request is taken, in the statements' words. -/
theorem State.inHand_eq (s : State) (p : Port) (code : Byte) :
    s.inHand p code = { s with
      ports := s.ports.set p { shiftedOut s p none with state := .processing code }
      orders := ordersHeard s p } := by
  simp only [State.inHand, State.shiftOut, State.pressHeard_eq, State.modPort, PortRec.opened_eq_taken,
    PerPort.get_set_same, PerPort.set_set]
  rfl

@[simp] theorem State.inHand_orders (s : State) (p : Port) (code : Byte) :
    (s.inHand p code).orders = ordersHeard s p := by
  rw [State.inHand_eq]

/-- An order manager changed while the request is in hand, once the answer is stored. -/
theorem State.hold_inHand_orders (s : State) (p : Port) (code : Byte) (body : ResponseBody) (o : OrderMgr) :
    { s.inHand p code with orders := o }.hold p code body = { answered s p code body with orders := o } := by
  simp only [State.inHand_eq, State.hold, State.modPort, answered, PerPort.get_set_same, PerPort.set_set]

section
variable {s : State} {p : Port} {code : Byte} {take : State → Taken} {e : Ev} {body : ResponseBody}
  (hidle : Idle s p) (hrole : permitted p code.toNat = true)
include hidle hrole

theorem State.request_refused {r : Reason} (htake : take (s.inHand p code) = Taken.refuse r) :
    s.request p code take = refused s p code r :=
  State.request_answered hidle hrole htake

theorem State.request_changed (htake : take (s.inHand p code) = .change e (some body)) :
    s.request p code take = (e.finish ((s.shiftOut p none).pressHeard p)).hold p code body := by
  obtain ⟨hstate, hheeded⟩ := hidle
  rw [State.request_taken s p code take hheeded hstate hrole, State.takeRequest, ← State.inHand, htake]

variable (htake : take (s.inHand p code) = .change e (some body)) (hpass : e.passDue = false)
  (hchannels : e.s.channels = (s.inHand p code).channels)
  (hlimit : e.s.alloc.effective = (s.inHand p code).alloc.effective)
include htake hpass hchannels hlimit

/-- Nothing due: the change and its answer, and nothing more. -/
theorem State.request_quiet (heval : e.evalDue = false) : s.request p code take = e.s.hold p code body := by
  have hfinish := Ev.finish_quiet e ((s.shiftOut p none).pressHeard p) hpass heval hchannels hlimit
  rw [State.request_changed hidle hrole htake, hfinish]

/-- An evaluation due: one push evaluation of the state with the change and its answer. -/
theorem State.request_evaluated (heval : e.evalDue = true) :
    s.request p code take = evaluated (e.s.hold p code body) := by
  have hfinish := Ev.finish_evaluate e ((s.shiftOut p none).pressHeard p) hpass heval hchannels hlimit
  rw [State.request_changed hidle hrole htake, hfinish, Ev.evaluate_hold]

end

/-! ## The order slots -/

theorem OrderSlot.isFree_iff {x : OrderSlot} : x.isFree = true ↔ x = .free := by
  cases x <;> simp [OrderSlot.isFree]

theorem OrderMgr.freeSlot_a {o : OrderMgr} (ha : o.a = .free) : o.freeSlot = some .a := by
  simp [OrderMgr.freeSlot, OrderSlot.isFree_iff, ha]

theorem OrderMgr.freeSlot_b {o : OrderMgr} (ha : o.a ≠ .free) (hb : o.b = .free) : o.freeSlot = some .b := by
  simp [OrderMgr.freeSlot, OrderSlot.isFree_iff, ha, hb]

theorem OrderMgr.freeSlot_none {o : OrderMgr} (ha : o.a ≠ .free) (hb : o.b ≠ .free) : o.freeSlot = none := by
  simp [OrderMgr.freeSlot, OrderSlot.isFree_iff, ha, hb]

theorem OrderMgr.nextRank_eq (o : OrderMgr) (n : SlotName) :
    o.nextRank n = if o.get (otherSlot n) = .free then 1 else 2 := by
  simp only [OrderMgr.nextRank, OrderSlot.isFree_iff]

/-- A frame restarts the silence timer and leaves the slots. -/
@[simp] theorem ordersHeard_get (s : State) (p : Port) (n : SlotName) : (ordersHeard s p).get n = s.orders.get n := by
  simp only [ordersHeard]
  split
  · split <;> cases n <;> rfl
  · rfl

@[simp] theorem ordersHeard_a (s : State) (p : Port) : (ordersHeard s p).a = s.orders.a := ordersHeard_get s p .a

@[simp] theorem ordersHeard_b (s : State) (p : Port) : (ordersHeard s p).b = s.orders.b := ordersHeard_get s p .b

@[simp] theorem slotOfCode_slotCode (n : SlotName) : slotOfCode (slotCode n) = some n := by cases n <;> rfl

theorem slotOfCode_of_above {code : Nat} (h : 1 < code) : slotOfCode code = none := by
  match code, h with
  | _ + 2, _ => rfl

/-! ## DEMAND (R151) -/

section
variable {tag deadline : Nat} {s : State}

theorem takeDemand_of_outOfRange (h : 255 < tag ∨ 600 < deadline) :
    takeDemand tag deadline s = Taken.refuse .outOfRange := by
  have hrange : (!(decide (tag ≤ 255) && decide (deadline ≤ 600))) = true := by
    simpa only [Bool.not_and, Bool.or_eq_true, Bool.not_eq_true', decide_eq_false_iff_not, Nat.not_le] using h
  rw [takeDemand, if_pos hrange]

variable (htag : tag ≤ 255) (hdeadline : deadline ≤ 600)
include htag hdeadline

theorem takeDemand_of_wrongMode (hrun : s.line.mode ≠ .run) (hdrain : s.line.mode ≠ .drain) :
    takeDemand tag deadline s = Taken.refuse .wrongMode := by
  simp [takeDemand, htag, hdeadline, hrun, hdrain]

variable (hmode : s.line.mode = .run ∨ s.line.mode = .drain)
include hmode

theorem takeDemand_of_noSlot (hslot : s.orders.freeSlot = none) :
    takeDemand tag deadline s = Taken.refuse .noSlot := by
  have hopen : ¬ (s.line.mode ≠ .run ∧ s.line.mode ≠ .drain) := fun ⟨hrun, hdrain⟩ => hmode.elim hrun hdrain
  simp [takeDemand, htag, hdeadline, hopen, hslot]

theorem takeDemand_of_slot {n : SlotName} (hslot : s.orders.freeSlot = some n) :
    takeDemand tag deadline s = .change
      ((Ev.of s).setSlot n
        (.pending tag (s.orders.nextRank n) (if deadline = 0 then none else some deadline))).dueEval
      (some (.data (.order n (s.orders.nextRank n)))) := by
  have hopen : ¬ (s.line.mode ≠ .run ∧ s.line.mode ≠ .drain) := fun ⟨hrun, hdrain⟩ => hmode.elim hrun hdrain
  simp [takeDemand, htag, hdeadline, hopen, hslot]

end

theorem exec_demand (tag deadline : Nat) (s : State) :
    exec (.demand .press tag deadline) s = .next (s.request .press 0x10 (takeDemand tag deadline)) := rfl

theorem exec_demand_refused {s : State} {tag deadline : Nat} {r : Reason} (hidle : Idle s .press)
    (htake : takeDemand tag deadline (s.inHand .press 0x10) = Taken.refuse r) :
    exec (.demand .press tag deadline) s = .next (refused s .press 0x10 r) := by
  rw [exec_demand, State.request_refused hidle (by decide) htake]

/-- An accepted DEMAND takes the free slot, and one evaluation follows. -/
theorem exec_demand_taken {s : State} {tag deadline rank : Nat} {n : SlotName} (hidle : Idle s .press)
    (htag : tag ≤ 255) (hdeadline : deadline ≤ 600) (hmode : s.line.mode = .run ∨ s.line.mode = .drain)
    (hslot : (ordersHeard s .press).freeSlot = some n) (hrank : (ordersHeard s .press).nextRank n = rank) :
    exec (.demand .press tag deadline) s = .next (evaluated
      { answered s .press 0x10 (.data (.order n rank)) with
        orders := (ordersHeard s .press).set n (.pending tag rank (if deadline = 0 then none else some deadline)) }) := by
  subst hrank
  have htake := takeDemand_of_slot (s := s.inHand .press 0x10) htag hdeadline (by simpa using hmode)
    (by simpa using hslot)
  simp only [State.inHand_orders] at htake
  rw [exec_demand, State.request_evaluated hidle (by decide) htake rfl rfl rfl rfl, ← State.hold_inHand_orders,
    ← State.inHand_orders s .press 0x10]
  rfl

/-! ## CANCEL_ORDER (R156) -/

theorem takeCancelOrder_of_outOfRange {s : State} {code : Nat} (h : 1 < code) :
    takeCancelOrder code s = Taken.refuse .outOfRange := by
  simp only [takeCancelOrder, slotOfCode_of_above h]

section
variable {s : State} {n : SlotName}

theorem takeCancelOrder_of_loading (hmode : s.line.mode = .loading) :
    takeCancelOrder (slotCode n) s = Taken.refuse .wrongMode := by
  simp only [takeCancelOrder, slotOfCode_slotCode, hmode, if_true]

variable (hmode : s.line.mode ≠ .loading)
include hmode

theorem takeCancelOrder_of_pending {tag rank : Nat} {d : Option Nat} (hslot : s.orders.get n = .pending tag rank d) :
    takeCancelOrder (slotCode n) s = .change ((Ev.of s).cancelSlot n tag rank .press).dueEval (some .accepted) := by
  simp only [takeCancelOrder, slotOfCode_slotCode, hmode, if_false, hslot, Taken.accept]

theorem takeCancelOrder_of_serving {tag rank k : Nat} {d : Option Nat}
    (hslot : s.orders.get n = .serving tag rank d k) : takeCancelOrder (slotCode n) s = Taken.refuse .busy := by
  simp only [takeCancelOrder, slotOfCode_slotCode, hmode, if_false, hslot]

/-- A FREE slot and a final slot have no order left to cancel. -/
theorem takeCancelOrder_of_noOrder (hpending : (s.orders.get n).isPending = false)
    (hserving : ∀ tag rank d k, s.orders.get n ≠ .serving tag rank d k) :
    takeCancelOrder (slotCode n) s = Taken.refuse .wrongMode := by
  simp only [takeCancelOrder, slotOfCode_slotCode, hmode, if_false]
  split
  · rename_i hslot
    simp [hslot, OrderSlot.isPending] at hpending
  · rename_i hslot
    exact absurd hslot (hserving _ _ _ _)
  · rfl

end

theorem exec_cancelOrder (code : Nat) (s : State) :
    exec (.cancelOrder .press code) s = .next (s.request .press 0x11 (takeCancelOrder code)) := rfl

theorem exec_cancelOrder_refused {s : State} {code : Nat} {r : Reason} (hidle : Idle s .press)
    (htake : takeCancelOrder code (s.inHand .press 0x11) = Taken.refuse r) :
    exec (.cancelOrder .press code) s = .next (refused s .press 0x11 r) := by
  rw [exec_cancelOrder, State.request_refused hidle (by decide) htake]

/-- An accepted CANCEL_ORDER cancels the PENDING slot and raises ORDER_CHANGED, and one evaluation follows. -/
theorem exec_cancelOrder_pending {s : State} {n : SlotName} {tag rank : Nat} {d : Option Nat} (hidle : Idle s .press)
    (hmode : s.line.mode ≠ .loading) (hslot : s.orders.get n = .pending tag rank d) :
    exec (.cancelOrder .press (slotCode n)) s = .next (evaluated (raise
      { answered s .press 0x11 .accepted with orders := (ordersHeard s .press).set n (.cancelled tag rank .press) }
      .press .orderChanged)) := by
  have htake := takeCancelOrder_of_pending (s := s.inHand .press 0x11) (n := n) (by simpa using hmode)
    (by simpa using hslot)
  have hchange : ((Ev.of (s.inHand .press 0x11)).cancelSlot n tag rank .press).s =
      raise { s.inHand .press 0x11 with orders := (s.inHand .press 0x11).orders.set n (.cancelled tag rank .press) }
        .press .orderChanged := rfl
  rw [exec_cancelOrder, State.request_evaluated hidle (by decide) htake rfl rfl rfl rfl, Ev.dueEval_s, hchange,
    State.hold_raise, State.hold_inHand_orders, State.inHand_orders]

/-! ## RELEASE_ORDER (R157) -/

theorem takeReleaseOrder_of_outOfRange {s : State} {code : Nat} (h : 1 < code) :
    takeReleaseOrder code s = Taken.refuse .outOfRange := by
  simp only [takeReleaseOrder, slotOfCode_of_above h]

theorem takeReleaseOrder_of_loading {s : State} {n : SlotName} (hmode : s.line.mode = .loading) :
    takeReleaseOrder (slotCode n) s = Taken.refuse .wrongMode := by
  simp only [takeReleaseOrder, slotOfCode_slotCode, hmode, if_true]

/-- The final states of an order slot (R149). -/
def OrderSlot.isFinal : OrderSlot → Bool
  | .filled _ _ _ | .cancelled _ _ _ | .expired _ _ => true
  | .free | .pending _ _ _ | .serving _ _ _ _ => false

section
variable {s : State} {n : SlotName} (hmode : s.line.mode ≠ .loading)
include hmode

theorem takeReleaseOrder_of_final (hfinal : (s.orders.get n).isFinal = true) :
    takeReleaseOrder (slotCode n) s = .change ((Ev.of s).modOrders fun o => o.free n) (some .accepted) := by
  simp only [takeReleaseOrder, slotOfCode_slotCode, hmode, if_false, Taken.accept]
  revert hfinal
  cases s.orders.get n <;> simp [OrderSlot.isFinal]

theorem takeReleaseOrder_of_notFinal (hfinal : (s.orders.get n).isFinal = false) :
    takeReleaseOrder (slotCode n) s = Taken.refuse .wrongMode := by
  simp only [takeReleaseOrder, slotOfCode_slotCode, hmode, if_false]
  revert hfinal
  cases s.orders.get n <;> simp [OrderSlot.isFinal]

end

theorem exec_releaseOrder (code : Nat) (s : State) :
    exec (.releaseOrder .press code) s = .next (s.request .press 0x12 (takeReleaseOrder code)) := rfl

theorem exec_releaseOrder_refused {s : State} {code : Nat} {r : Reason} (hidle : Idle s .press)
    (htake : takeReleaseOrder code (s.inHand .press 0x12) = Taken.refuse r) :
    exec (.releaseOrder .press code) s = .next (refused s .press 0x12 r) := by
  rw [exec_releaseOrder, State.request_refused hidle (by decide) htake]

/-- An accepted RELEASE_ORDER frees the slot, and no evaluation follows. -/
theorem exec_releaseOrder_final {s : State} {n : SlotName} (hidle : Idle s .press) (hmode : s.line.mode ≠ .loading)
    (hfinal : (s.orders.get n).isFinal = true) :
    exec (.releaseOrder .press (slotCode n)) s = .next
      { answered s .press 0x12 .accepted with
        orders := ((ordersHeard s .press).set n .free).set (otherSlot n) ((s.orders.get (otherSlot n)).withRank 1) } := by
  have htake := takeReleaseOrder_of_final (s := s.inHand .press 0x12) (n := n) (by simpa using hmode)
    (by simpa using hfinal)
  have hchange : ((Ev.of (s.inHand .press 0x12)).modOrders fun o => o.free n).s =
      { s.inHand .press 0x12 with orders := (s.inHand .press 0x12).orders.free n } := rfl
  rw [exec_releaseOrder, State.request_quiet hidle (by decide) htake rfl rfl rfl rfl, hchange,
    State.hold_inHand_orders, State.inHand_orders, OrderMgr.free, ordersHeard_get]

/-! ## The statements -/

/-- Settles O22: each refusal and each acceptance is one case of what the order manager makes of the request, and an
acceptance is followed by one evaluation. -/
theorem ordersAreTakenAndCancelled : Obligations.OrdersAreTakenAndCancelled := by
  unfold Obligations.OrdersAreTakenAndCancelled
  constructor
  · intro s tag deadline hidle
    refine ⟨fun hrange => exec_demand_refused hidle (takeDemand_of_outOfRange hrange), fun htag hdeadline =>
      ⟨fun hrun hdrain => ?_, fun hmode => ⟨fun ha hb => ?_, fun ha => ?_, fun ha hb => ?_⟩⟩⟩
    · exact exec_demand_refused hidle
        (takeDemand_of_wrongMode htag hdeadline (by simpa using hrun) (by simpa using hdrain))
    · exact exec_demand_refused hidle
        (takeDemand_of_noSlot htag hdeadline (by simpa using hmode)
          (OrderMgr.freeSlot_none (by simpa using ha) (by simpa using hb)))
    · exact exec_demand_taken hidle htag hdeadline hmode (OrderMgr.freeSlot_a (by simpa using ha))
        (by rw [OrderMgr.nextRank_eq, ordersHeard_get]; rfl)
    · exact exec_demand_taken hidle htag hdeadline hmode
        (OrderMgr.freeSlot_b (by simpa using ha) (by simpa using hb))
        (by rw [OrderMgr.nextRank_eq, ordersHeard_get]; exact if_neg ha)
  · intro s code hidle
    refine ⟨fun hcode => exec_cancelOrder_refused hidle (takeCancelOrder_of_outOfRange hcode), ?_⟩
    rintro n rfl
    refine ⟨fun hmode => ?_, fun hmode => ⟨fun tag rank d hslot => ?_, fun tag rank d k hslot => ?_,
      fun hpending hserving => ?_⟩⟩
    · exact exec_cancelOrder_refused hidle (takeCancelOrder_of_loading (by simpa using hmode))
    · exact exec_cancelOrder_pending hidle hmode hslot
    · exact exec_cancelOrder_refused hidle
        (takeCancelOrder_of_serving (by simpa using hmode) (by simpa using hslot))
    · exact exec_cancelOrder_refused hidle
        (takeCancelOrder_of_noOrder (by simpa using hmode) (by simpa using hpending) (by simpa using hserving))

/-- Settles O23: a slot is final or it is not, and the request is accepted or refused by that. -/
theorem releaseOrderFreesAFinalSlot : Obligations.ReleaseOrderFreesAFinalSlot := by
  unfold Obligations.ReleaseOrderFreesAFinalSlot
  intro s code hidle
  refine ⟨fun hcode => exec_releaseOrder_refused hidle (takeReleaseOrder_of_outOfRange hcode), ?_⟩
  rintro n rfl
  refine ⟨fun hmode => exec_releaseOrder_refused hidle (takeReleaseOrder_of_loading (by simpa using hmode)),
    fun hmode => ?_⟩
  have hfreed := exec_releaseOrder_final (n := n) hidle hmode
  have hrefused : (s.orders.get n).isFinal = false → _ := fun hfinal =>
    exec_releaseOrder_refused hidle (takeReleaseOrder_of_notFinal (s := s.inHand .press 0x12) (n := n)
      (by simpa using hmode) (by simpa using hfinal))
  cases hslot : s.orders.get n with
  | free => exact hrefused (by rw [hslot]; rfl)
  | pending => exact hrefused (by rw [hslot]; rfl)
  | serving => exact hrefused (by rw [hslot]; rfl)
  | filled => exact hfreed (by rw [hslot]; rfl)
  | cancelled => exact hfreed (by rw [hslot]; rfl)
  | expired => exact hfreed (by rw [hslot]; rfl)

end Sys2Proof.Machine
end

