-- ==== Sys2Proof/Proofs/StopAndReset.lean ====
section
/-! STOP and RESET_FAULT (R171, R179), and with them what an entry into a mode without heat does (R72, R102, R158, R166): the
mode announced on the three ports, heating ended if the line was heating, PENDING orders cancelled, and at the end of its event
no allocation pass and no push. -/

namespace Sys2Proof.Machine

open Sys2Proof.Stated

/-! ## What the end of heating leaves of the coils and the channels (R72, R81, R85) -/

/-- The channels that are working. -/
def State.working (s : State) : Inv → Bool := fun u => (s.channels.get u).state.working

/-- All that a wind-down leaves as it was: the coils, the queues, the grants, the ports, and which channels are working. -/
def State.woundDown (s : State) := (s.alloc.coils, s.alloc.queues, s.alloc.grants, s.ports, s.working)

theorem Ev.modChannel_working {e : Ev} {u : Inv} {f : Channel → Channel}
    (h : (f (e.s.channels.get u)).state.working = (e.s.channels.get u).state.working) :
    (e.modChannel u f).s.working = e.s.working := by
  funext v
  by_cases hv : v = u
  · subst hv
    simpa [State.working, Ev.modChannel] using h
  · simp [State.working, Ev.modChannel, PerInv.get_set_other _ _ hv]

theorem Ev.modChannel_woundDown {e : Ev} {u : Inv} {f : Channel → Channel}
    (h : (f (e.s.channels.get u)).state.working = (e.s.channels.get u).state.working) :
    (e.modChannel u f).s.woundDown = e.s.woundDown := by
  simp only [State.woundDown, Ev.modChannel_working h]
  rfl

theorem Ev.enqueue_woundDown (e : Ev) (x : LinkEntry) : (e.enqueue x).s.woundDown = e.s.woundDown := by
  simp only [Ev.enqueue]
  split <;> rfl

theorem State.working_of_channels {s t : State} (h : t.channels = s.channels) : t.working = s.working := by
  funext u
  simp only [State.working, h]

theorem State.working_of_woundDown {s t : State} (h : t.woundDown = s.woundDown) : t.working = s.working := by
  simp only [State.woundDown, Prod.mk.injEq] at h
  obtain ⟨-, -, -, -, hworking⟩ := h
  exact hworking

/-- A working channel takes another working state. -/
theorem Ev.enterState_woundDown {e : Ev} {s : State} {u : Inv} {st : ChannelState} (h : e.s.woundDown = s.woundDown)
    (hst : st.working = true) (hu : s.working u = true) : (e.enterState u st).s.woundDown = s.woundDown := by
  have hquiet : st.alarms = false := by
    cases st <;>
      simp_all [ChannelState.working, ChannelState.alarms, ChannelState.isFaulted, ChannelState.isLocked]
  have hwas : e.s.working u = true := by rw [State.working_of_woundDown h, hu]
  have hchannel : (e.modChannel u fun c => { c with state := st }).s.woundDown = s.woundDown :=
    (Ev.modChannel_woundDown (hst.trans hwas.symm)).trans h
  simp only [Ev.enterState, hquiet, Bool.false_eq_true, if_false]
  (repeat' split) <;> exact hchannel

section
variable {e : Ev} {s : State} {u : Inv} (h : e.s.woundDown = s.woundDown) (hu : s.working u = true)
include h hu

theorem Ev.enterStopping_woundDown : (e.enterStopping u).s.woundDown = s.woundDown := by
  simp only [Ev.enterStopping, Ev.enqueue_woundDown]
  exact Ev.enterState_woundDown ((Ev.modChannel_woundDown rfl).trans h) rfl hu

theorem Ev.enterOpening_woundDown : (e.enterOpening u).s.woundDown = s.woundDown := by
  have hended : ((e.withdraw u).modChannel u fun c =>
      { c with
        commanded := none, deferred := none, retry := none, sent := false, timedOut := false
        stopConfirm := .stopped, clearing := false }).s.woundDown = s.woundDown :=
    (Ev.modChannel_woundDown rfl).trans h
  simp only [Ev.enterOpening]
  split <;> exact Ev.enterState_woundDown hended rfl hu

end

theorem Ev.disconnect_woundDown (e : Ev) (u : Inv) : (e.disconnect u).s.woundDown = e.s.woundDown := by
  have hrelease : (e.modChannel u fun c => { c with release := true, deferred := none }).s.woundDown = e.s.woundDown :=
    Ev.modChannel_woundDown rfl
  simp only [Ev.disconnect]
  split
  · exact hrelease
  · exact hrelease
  · rename_i hstate
    split
    · exact hrelease
    · exact Ev.enterStopping_woundDown rfl (congrArg ChannelState.working hstate)
  · rfl

theorem Ev.withdrawSetOutput_woundDown (e : Ev) (u : Inv) : (e.withdrawSetOutput u).s.woundDown = e.s.woundDown := by
  have hwithdraw : ((e.withdraw u).modChannel u fun c =>
      { c with commanded := none, deferred := none, retry := none }).s.woundDown = e.s.woundDown :=
    Ev.modChannel_woundDown rfl
  simp only [Ev.withdrawSetOutput]
  split
  · split
    · rename_i hstate
      have hstarting : e.s.working u = true := congrArg ChannelState.working hstate
      split
      · exact Ev.enterStopping_woundDown ((Ev.modChannel_woundDown rfl).trans hwithdraw) hstarting
      · exact Ev.enterOpening_woundDown hwithdraw hstarting
    · exact hwithdraw
  · rfl

theorem Ev.withdrawSetOutputs_woundDown (e : Ev) : e.withdrawSetOutputs.s.woundDown = e.s.woundDown :=
  Ev.forEach_view State.woundDown _ _ (fun u e => Ev.withdrawSetOutput_woundDown e u) e

/-- A release with cause MODE: the grant is released, and nothing else of the allocator's queues and coils changes (R67). -/
theorem Ev.release_mode_spec (e : Ev) (u : Inv) :
    (e.release u .mode).s.woundDown =
      (e.s.alloc.coils, e.s.alloc.queues,
        e.s.alloc.grants.set u ((e.s.alloc.grants.get u).map fun g => { g with released := true }), e.s.ports,
        e.s.working) := by
  simp only [Ev.release]
  split
  · rename_i hnone
    rw [hnone, Option.map_none, ← hnone, PerInv.set_get]
    rfl
  · rename_i g hgrant
    rw [hgrant, Option.map_some]
    split
    · rename_i hreleased
      have hsame : ({ g with released := true } : Grant) = g := by rw [← hreleased]
      rw [hsame, ← hgrant, PerInv.set_get]
      rfl
    · rw [Ev.disconnect_woundDown]
      rfl

/-! ## The end of heating (R67, R72) -/

/-- A channel holds no grant, or one that is released. -/
def GrantReleased (u : Inv) (s : State) : Prop := ∀ g, s.alloc.grants.get u = some g → g.released = true

theorem Ev.release_mode_makes_released (e : Ev) (u : Inv) : GrantReleased u (e.release u .mode).s := by
  intro g hg
  have hspec := Ev.release_mode_spec e u
  simp only [State.woundDown, Prod.mk.injEq] at hspec
  obtain ⟨-, -, hgrants, -⟩ := hspec
  rw [hgrants, PerInv.get_set_same, Option.map_eq_some_iff] at hg
  obtain ⟨g', -, rfl⟩ := hg
  rfl

theorem Ev.release_mode_keeps_released (e : Ev) (u v : Inv) (h : GrantReleased v e.s) :
    GrantReleased v (e.release u .mode).s := by
  by_cases hv : v = u
  · subst hv
    exact Ev.release_mode_makes_released e v
  · have hspec := Ev.release_mode_spec e u
    simp only [State.woundDown, Prod.mk.injEq] at hspec
    obtain ⟨-, -, hgrants, -⟩ := hspec
    rw [GrantReleased, hgrants, PerInv.get_set_other _ _ hv]
    exact h

/-- What every operation for an item keeps, the operations for a list of items keep. -/
theorem Ev.forEach_keeps {α : Type} {P : State → Prop} {f : α → Ev → Ev} (hkeeps : ∀ y e, P e.s → P (f y e).s)
    (xs : List α) (e : Ev) (h : P e.s) : P (e.forEach xs f).s := by
  induction xs generalizing e with
  | nil => exact h
  | cons y ys ih => exact ih (f y e) (hkeeps y e h)

/-- What the operation for an item establishes and every operation keeps holds of each item of the list in the end. -/
theorem Ev.forEach_establishes {α : Type} {P : α → State → Prop} {f : α → Ev → Ev}
    (hkeeps : ∀ x y e, P x e.s → P x (f y e).s) (hmakes : ∀ x e, P x (f x e).s) {x : α} {xs : List α} (hx : x ∈ xs)
    (e : Ev) : P x (e.forEach xs f).s := by
  induction xs generalizing e with
  | nil => cases hx
  | cons y ys ih =>
    cases hx with
    | head => exact Ev.forEach_keeps (hkeeps x) ys (f x e) (hmakes x e)
    | tail _ hys => exact ih hys (f y e)

theorem mem_inverters (u : Inv) : u ∈ inverters := by cases u <;> decide

/-- The grants released in turn leave the coils, the queues, the ports and which channels are working. -/
theorem Ev.releaseAll_spec (e : Ev) :
    (e.forEach inverters fun u e => e.release u .mode).s.woundDown =
      (e.s.alloc.coils, e.s.alloc.queues, (e.forEach inverters fun u e => e.release u .mode).s.alloc.grants, e.s.ports,
        e.s.working) := by
  have hkept := Ev.forEach_view (fun s => (s.alloc.coils, s.alloc.queues, s.ports, s.working)) inverters
    (fun u e => e.release u .mode) (fun u e => by
      have hspec := Ev.release_mode_spec e u
      simp only [State.woundDown, Prod.mk.injEq] at hspec
      simp [hspec]) e
  simp only [Prod.mk.injEq] at hkept
  simp [State.woundDown, hkept]

theorem Ev.emptyQueues_coil_not_queued {e : Ev} {j : Nat} {c : Coil} (h : e.emptyQueues.s.coil j = some c) (k : Nat) :
    c.state ≠ .queued k := by
  have hcoil : c ∈ e.emptyQueues.s.alloc.coils := by
    simp only [State.coil, at1] at h
    split at h
    · cases h
    · exact List.mem_of_getElem? h
  obtain ⟨old, -, rfl⟩ := List.mem_map.mp hcoil
  split
  · simp
  · rename_i hstate
    exact hstate k

/-- The end of heating: no coil queued, every grant released, the ports and the working channels as they were (R72, R81). -/
theorem Ev.stopHeating_spec (e : Ev) :
    HeatingEnded e.stopHeating.s ∧ e.stopHeating.s.ports = e.s.ports ∧ e.stopHeating.s.working = e.s.working := by
  have hspec := (Ev.withdrawSetOutputs_woundDown _).trans (Ev.releaseAll_spec e.emptyQueues)
  change e.stopHeating.s.woundDown = _ at hspec
  simp only [State.woundDown, Prod.mk.injEq] at hspec
  obtain ⟨hcoils, hqueues, hgrants, hports, hworking⟩ := hspec
  refine ⟨⟨hqueues, fun j c hc => ?_, fun u g hg => ?_⟩, hports, hworking⟩
  · rw [State.coil, hcoils] at hc
    exact Ev.emptyQueues_coil_not_queued hc
  · rw [hgrants] at hg
    exact Ev.forEach_establishes (P := GrantReleased) (fun v u e h => Ev.release_mode_keeps_released e u v h)
      (fun u e => Ev.release_mode_makes_released e u) (mem_inverters u) e.emptyQueues g hg

/-- The end of heating is a matter of the allocator alone. -/
theorem heatingEnded_of_alloc {s t : State} (h : HeatingEnded s) (hcoils : t.alloc.coils = s.alloc.coils)
    (hqueues : t.alloc.queues = s.alloc.queues) (hgrants : t.alloc.grants = s.alloc.grants) : HeatingEnded t := by
  simpa only [HeatingEnded, State.coil, hcoils, hqueues, hgrants] using h

/-! ## The order manager at a change of mode (R158, R162) -/

/-- The order manager's part of a change of mode: PENDING slots by the mode entered, and the supply indicator (R158, R162). -/
def Ev.ordersFollow (e : Ev) : Ev := ((e.cancelPending .a).cancelPending .b).recountSupply

/-- Of a port record, what its master is answered by and MODE_CHANGED: neither order signals nor push signals alter them. -/
def PortRec.marks (r : PortRec) := (r.state, r.select, r.shifted, r.flags.modeChanged)

/-- Everything the order manager's part leaves as it was. -/
def State.offSlots (s : State) := (s.offEval, s.push, fun q => (s.ports.get q).marks)

theorem Ev.cancelPending_offSlots (e : Ev) (n : SlotName) : (e.cancelPending n).s.offSlots = e.s.offSlots := by
  simp only [Ev.cancelPending]
  split
  · refine congrArg (fun m => (e.s.offEval, e.s.push, m)) ?_
    funext q
    cases q <;> rfl
  · rfl

theorem Ev.recountSupply_offSlots (e : Ev) : e.recountSupply.s.offSlots = e.s.offSlots := by
  simp only [Ev.recountSupply]
  split
  · rfl
  · refine congrArg (fun m => (e.s.offEval, e.s.push, m)) ?_
    funext q
    cases q <;> rfl

theorem Ev.ordersFollow_offSlots (e : Ev) : e.ordersFollow.s.offSlots = e.s.offSlots := by
  rw [Ev.ordersFollow, Ev.recountSupply_offSlots, Ev.cancelPending_offSlots, Ev.cancelPending_offSlots]

/-- Every block of which a change of mode takes no notice but in FAULT_STOP. -/
def State.offModes (s : State) := (s.pending, s.lines, s.track, s.recipes, s.settings, s.loader, s.free)

/-- The blocks that heat. -/
def State.plant (s : State) := (s.alloc, s.channels, s.matrix, s.link)

theorem trackKept_of_offModes {s t : State} (h : t.offModes = s.offModes) : TrackKept s t := by
  simp only [State.offModes, Prod.mk.injEq] at h
  cases t
  simp_all [TrackKept]

theorem onlyOrdersAndPushes_of_plant {s t : State} (h : t.offModes = s.offModes) (hplant : t.plant = s.plant) :
    OnlyOrdersAndPushes s t := by
  simp only [State.offModes, State.plant, Prod.mk.injEq] at h hplant
  cases t
  simp_all [OnlyOrdersAndPushes]

theorem State.parts_of_offPlant {s t : State} (h : t.offPlant = s.offPlant) :
    t.line = s.line ∧ t.push = s.push ∧ t.orders = s.orders ∧ t.offModes = s.offModes := by
  simp only [State.offPlant, Prod.mk.injEq] at h
  simp [State.offModes, h]

theorem State.parts_of_offSlots {s t : State} (h : t.offSlots = s.offSlots) :
    t.line = s.line ∧ t.push = s.push ∧ t.offModes = s.offModes ∧ t.plant = s.plant ∧
      ∀ q, (t.ports.get q).marks = (s.ports.get q).marks := by
  simp only [State.offSlots, State.offEval, Prod.mk.injEq, funext_iff] at h
  simp [State.offModes, State.plant, h]

@[simp] theorem OrderMgr.get_set_same (o : OrderMgr) (n : SlotName) (x : OrderSlot) : (o.set n x).get n = x := by
  cases n <;> rfl

theorem OrderMgr.get_set_other (o : OrderMgr) {n k : SlotName} (x : OrderSlot) (h : k ≠ n) :
    (o.set n x).get k = o.get k := by
  cases n <;> cases k <;> first | rfl | exact absurd rfl h

@[simp] theorem Ev.recountSupply_get (e : Ev) (n : SlotName) : e.recountSupply.s.orders.get n = e.s.orders.get n := by
  simp only [Ev.recountSupply]
  split <;> cases n <;> rfl

theorem Ev.cancelPending_get_other (e : Ev) {n k : SlotName} (h : k ≠ n) :
    (e.cancelPending n).s.orders.get k = e.s.orders.get k := by
  simp only [Ev.cancelPending]
  split
  · exact OrderMgr.get_set_other _ _ h
  · rfl

theorem Ev.cancelPending_get_same {e : Ev} {r : CancelReason}
    (hr : cancelReasonOf e.s.line.restartMark e.s.line.mode = some r) (n : SlotName) :
    (e.cancelPending n).s.orders.get n = cancelledBy r (e.s.orders.get n) := by
  cases hslot : e.s.orders.get n with
  | pending tag rank d =>
    simp only [Ev.cancelPending, hr, hslot]
    exact OrderMgr.get_set_same _ _ _
  | _ => simp only [Ev.cancelPending, hr, hslot, cancelledBy]

/-- Each slot by the reason of the mode entered (R158). -/
theorem Ev.ordersFollow_get {e : Ev} {r : CancelReason}
    (hr : cancelReasonOf e.s.line.restartMark e.s.line.mode = some r) (n : SlotName) :
    e.ordersFollow.s.orders.get n = cancelledBy r (e.s.orders.get n) := by
  obtain ⟨hline, -⟩ := State.parts_of_offSlots (Ev.cancelPending_offSlots e .a)
  rw [Ev.ordersFollow, Ev.recountSupply_get]
  cases n with
  | a => rw [Ev.cancelPending_get_other _ (by decide), Ev.cancelPending_get_same hr]
  | b => rw [Ev.cancelPending_get_same (by rw [hline]; exact hr), Ev.cancelPending_get_other _ (by decide)]

/-! ## An entry into a mode without heat (R166) -/

/-- What comes first at a change of mode: the mode with its hold-limit timer, and MODE_CHANGED on the three ports (R166,
R174). -/
def Ev.announceMode (e : Ev) (m : Mode) : Ev :=
  (e.modLine fun l => { l with mode := m, holdTimer := holdTimerOf e.s.settings.timers.holdLimit m }).raiseModeChanged

theorem Ev.announceMode_marks (e : Ev) (m : Mode) (q : Port) :
    ((e.announceMode m).s.ports.get q).marks =
      ((e.s.ports.get q).state, (e.s.ports.get q).select, (e.s.ports.get q).shifted, true) := by
  cases q <;> rfl

@[simp] theorem Ev.heatingFollows_offPlant (e : Ev) (old : Mode) : (e.heatingFollows old).s.offPlant = e.s.offPlant := by
  simp only [Ev.heatingFollows]
  (repeat' split) <;> simp

/-- In a mode without heat the allocator and the channels act on the change only if the line was heating (R72, R102). -/
theorem Ev.heatingFollows_of_cold {e : Ev} (h : e.s.line.mode.heating = false) (old : Mode) :
    e.heatingFollows old = if old.heating then e.stopHeating else e := by
  simp only [Ev.heatingFollows, h, Bool.false_eq_true, if_false]

theorem Ev.heatingFollows_spec {e : Ev} (h : e.s.line.mode.heating = false) (old : Mode) :
    (e.heatingFollows old).s.ports = e.s.ports ∧ (e.heatingFollows old).s.working = e.s.working := by
  rw [Ev.heatingFollows_of_cold h]
  split
  · exact (Ev.stopHeating_spec e).2
  · exact ⟨rfl, rfl⟩

/-- The steps of a change of mode in their order, out of LOADING and into a mode other than FAULT_STOP. -/
theorem Ev.enterMode_eq {e : Ev} {m : Mode} (hloading : e.s.line.mode ≠ .loading) (hfault : m ≠ .faultStop) :
    e.enterMode m = ((e.announceMode m).heatingFollows e.s.line.mode).ordersFollow.dueEval := by
  simp only [Ev.enterMode, hloading, hfault, if_false]
  rfl

/-- The modes in which the line rests or comes to rest (R169). -/
def Mode.atRest : Mode → Bool
  | .standby | .stopping _ => true
  | _ => false

theorem Mode.atRest_spec {m : Mode} (h : m.atRest = true) : m.heating = false ∧ m ≠ .faultStop ∧ m ≠ .purge := by
  cases m <;> simp_all [Mode.atRest, Mode.heating]

/-- The hold-limit timer runs in HOLD alone (R174). -/
theorem holdTimerOf_of_atRest {m : Mode} (h : m.atRest = true) (limit : Nat) : holdTimerOf limit m = .stopped := by
  cases m <;> simp_all [Mode.atRest, holdTimerOf]

/-- What an entry into a mode at rest makes of a state (R72, R158, R166). -/
structure EntersRest (s t : State) (m : Mode) : Prop where
  line : t.line = { s.line with mode := m, holdTimer := .stopped }
  push : t.push = s.push
  offModes : t.offModes = s.offModes
  marks : ∀ q, (t.ports.get q).marks = ((s.ports.get q).state, (s.ports.get q).select, (s.ports.get q).shifted, true)
  working : t.working = s.working
  orders : ∀ r, cancelReasonOf s.line.restartMark m = some r → ∀ n, t.orders.get n = cancelledBy r (s.orders.get n)
  heatingEnded : s.line.mode.heating = true → HeatingEnded t
  plant : s.line.mode.heating = false → t.plant = s.plant

theorem Ev.enterMode_entersRest {e : Ev} {m : Mode} (hloading : e.s.line.mode ≠ .loading) (hm : m.atRest = true) :
    EntersRest e.s (e.enterMode m).s m := by
  obtain ⟨hcold, hfault, -⟩ := Mode.atRest_spec hm
  have hfollows := Ev.heatingFollows_of_cold (e := e.announceMode m) hcold e.s.line.mode
  obtain ⟨hports, hworking⟩ := Ev.heatingFollows_spec (e := e.announceMode m) hcold e.s.line.mode
  obtain ⟨hline, hpush, horders, hoff⟩ :=
    State.parts_of_offPlant (Ev.heatingFollows_offPlant (e.announceMode m) e.s.line.mode)
  rw [Ev.enterMode_eq hloading hfault]
  generalize (e.announceMode m).heatingFollows e.s.line.mode = x at *
  obtain ⟨hline', hpush', hoff', hplant', hmarks'⟩ := State.parts_of_offSlots (Ev.ordersFollow_offSlots x)
  have hxline : x.s.line = { e.s.line with mode := m, holdTimer := .stopped } := by
    rw [hline, ← holdTimerOf_of_atRest hm e.s.settings.timers.holdLimit]
    rfl
  have hparts := hplant'
  simp only [State.plant, Prod.mk.injEq] at hparts
  obtain ⟨halloc, hchannels, -⟩ := hparts
  exact {
    line := hline'.trans hxline
    push := hpush'.trans hpush
    offModes := hoff'.trans hoff
    marks := fun q => (hmarks' q).trans (by rw [hports]; exact Ev.announceMode_marks e m q)
    working := (State.working_of_channels hchannels).trans hworking
    orders := fun r hr n => by
      rw [Ev.dueEval_s, Ev.ordersFollow_get (by rw [hxline]; exact hr), horders]
      rfl
    heatingEnded := fun hheat => by
      have hended : HeatingEnded x.s := by
        rw [hfollows, if_pos hheat]
        exact (Ev.stopHeating_spec _).1
      exact heatingEnded_of_alloc hended (congrArg Allocator.coils halloc) (congrArg Allocator.queues halloc)
        (congrArg Allocator.grants halloc)
    plant := fun hheat => by
      have hsame : x = e.announceMode m := by rw [hfollows, if_neg (by simp [hheat])]
      rw [Ev.dueEval_s, hplant', hsame]
      rfl }

theorem Ev.enterMode_evalDue (e : Ev) (m : Mode) : (e.enterMode m).evalDue = true := rfl

/-! ## The end of an event that leaves the line at rest (R59, R71, R127, R169) -/

theorem State.wantedPush_of_atRest {s : State} (h : s.line.mode.atRest = true) : s.wantedPush = .nothing := by
  simp only [State.wantedPush]
  split
  · rfl
  · cases hmode : s.line.mode <;> simp_all [Mode.atRest]

theorem Ev.allocationPass_of_cold {e : Ev} (h : e.s.line.mode.heating = false) : e.allocationPass = e := by
  simp [Ev.allocationPass, State.passAllowed, h]

/-- The pending limit, where it takes effect, is a matter of two items of the allocator (R71). -/
theorem Ev.adoptPending_alloc (e : Ev) (c : Nat) :
    ∃ a : Allocator, (e.adoptPending c).s = { e.s with alloc := a } ∧ a.coils = e.s.alloc.coils ∧
      a.queues = e.s.alloc.queues ∧ a.grants = e.s.alloc.grants := by
  simp only [Ev.adoptPending]
  split
  · split
    · split <;> exact ⟨_, rfl, rfl, rfl, rfl⟩
    · exact ⟨_, rfl, rfl, rfl, rfl⟩
  · exact ⟨_, rfl, rfl, rfl, rfl⟩

/-- No channel left the working states, so STOPPING does not end; no pass grants and no push is wanted at rest: the pending
limit may take effect, and the cradle wait mark is cleared. -/
theorem Ev.finish_atRest {e : Ev} {before : State} (hrest : e.s.line.mode.atRest = true) (heval : e.evalDue = true)
    (hworking : e.s.working = before.working) :
    e.finish before =
      { (e.adoptPending before.committed).s with push := { e.s.push with cradleWait := false } } := by
  have hstays := Ev.testStopping_adopted e before before.committed
    (.inr fun u hu => (congrFun hworking u).trans hu)
  obtain ⟨a, ha, -⟩ := Ev.adoptPending_alloc e before.committed
  have hdue := (Ev.adoptPending_evalDue e before.committed).trans heval
  simp only [Ev.finish, hstays]
  generalize e.adoptPending before.committed = x at ha hdue ⊢
  have hrest' : x.s.line.mode.atRest = true := by rw [ha]; exact hrest
  have hpush : x.s.push = e.s.push := by rw [ha]
  simp only [Ev.allocationPass_of_cold (Mode.atRest_spec hrest').1, ite_self, hdue, if_true,
    Ev.evaluate_nothing x (State.wantedPush_of_atRest hrest'), ← hpush]
  rfl

/-- An event that is an entry into a mode at rest: beside the entry, the cradle wait mark is cleared, and where channels of a
heating line wound down the pending limit may take effect (R71, R127). -/
theorem Ev.enterMode_finish {e : Ev} {before : State} {m : Mode} (hloading : e.s.line.mode ≠ .loading)
    (hm : m.atRest = true) (hbefore : e.s.channels = before.channels) :
    ∃ a : Allocator, (e.enterMode m).finish before =
        { (e.enterMode m).s with alloc := a, push := { e.s.push with cradleWait := false } } ∧
      a.coils = (e.enterMode m).s.alloc.coils ∧ a.queues = (e.enterMode m).s.alloc.queues ∧
      a.grants = (e.enterMode m).s.alloc.grants ∧
      (e.s.line.mode.heating = false → a = (e.enterMode m).s.alloc) := by
  have hentry := Ev.enterMode_entersRest hloading hm
  have hrest : (e.enterMode m).s.line.mode.atRest = true := by rw [hentry.line]; exact hm
  have hfinish := Ev.finish_atRest hrest (Ev.enterMode_evalDue e m)
    (hentry.working.trans (State.working_of_channels hbefore))
  obtain ⟨a, ha, hcoils, hqueues, hgrants⟩ := Ev.adoptPending_alloc (e.enterMode m) before.committed
  refine ⟨a, ?_, hcoils, hqueues, hgrants, fun hcold => ?_⟩
  · rw [hfinish, ha, hentry.push]
  · have hplant := hentry.plant hcold
    simp only [State.plant, Prod.mk.injEq] at hplant
    obtain ⟨-, hchannels, -⟩ := hplant
    have hsame := Ev.adoptPending_of_not_lt (e.enterMode m) before.committed
      (by rw [State.committed_of_channels (hchannels.trans hbefore)]; exact Nat.lt_irrefl _)
    exact congrArg State.alloc (ha.symm.trans (congrArg Ev.s hsame))

/-! ## A supervisor request accepted with an entry into a mode at rest -/

/-- What such a request makes of a state, `l` being the line mode controller's items as they stand before the entry. -/
structure RestRequested (s t : State) (code : Byte) (l : LineCtl) (m : Mode) : Prop where
  answers : Answers s t .supervisor code .accepted
  modeChanged : ModeChanged t
  line : t.line = { l with mode := m, holdTimer := .stopped }
  push : t.push = { s.push with cradleWait := false }
  offModes : t.offModes = s.offModes
  cancelled : PendingCancelled s t
  heatingEnded : l.mode.heating = true → HeatingEnded t
  plant : l.mode.heating = false → t.plant = s.plant

/-- The answer held, once the event has left its marks on the ports. -/
theorem answers_of_marks {s t : State} {p : Port} {code : Byte} {body : ResponseBody}
    (hmarks : ∀ q, (t.ports.get q).marks = (((s.inHand p code).ports.get q).state,
      ((s.inHand p code).ports.get q).select, ((s.inHand p code).ports.get q).shifted, true)) :
    Answers s (t.hold p code body) p code body ∧ ModeChanged (t.hold p code body) := by
  simp only [PortRec.marks, Prod.mk.injEq, State.inHand_eq] at hmarks
  have hown := hmarks p
  simp only [PerPort.get_set_same] at hown
  obtain ⟨-, hselect, hshifted, -⟩ := hown
  have hothers : ∀ q, q ≠ p → ((t.hold p code body).ports.get q) = t.ports.get q :=
    fun q hq => State.modPort_get_other t _ hq
  have hself : (t.hold p code body).ports.get p =
      { t.ports.get p with state := .ready { code := code, body := body } } := PerPort.get_set_same _ _ _
  refine ⟨⟨by rw [hself], by rw [hself]; exact hselect, by rw [hself]; exact hshifted, fun q hq => ?_⟩, fun q => ?_⟩
  · obtain ⟨hstate, hselect, hshifted, -⟩ := hmarks q
    rw [PerPort.get_set_other _ _ hq] at hstate hselect hshifted
    rw [hothers q hq]
    exact ⟨hstate, hselect, hshifted⟩
  · obtain ⟨-, -, -, hflag⟩ := hmarks q
    by_cases hq : q = p
    · subst hq
      rw [Raised, hself]
      exact hflag
    · rw [Raised, hothers q hq]
      exact hflag

/-- The request taken in hand, the entry, the end of its event and the answer, put together. -/
theorem State.request_atRest {s : State} {code : Byte} {take : State → Taken} {l : LineCtl} {m : Mode}
    (hidle : Idle s .supervisor) (hrole : permitted .supervisor code.toNat = true)
    (htake : take (s.inHand .supervisor code) =
      Taken.accept ((Ev.of { s.inHand .supervisor code with line := l }).enterMode m))
    (hloading : l.mode ≠ .loading) (hm : m.atRest = true) (hreason : cancelReasonOf l.restartMark m = some .mode) :
    RestRequested s (s.request .supervisor code take) code l m := by
  have hentry := Ev.enterMode_entersRest (e := Ev.of { s.inHand .supervisor code with line := l }) hloading hm
  obtain ⟨a, hfinish, hcoils, hqueues, hgrants, halloc⟩ := Ev.enterMode_finish
    (e := Ev.of { s.inHand .supervisor code with line := l })
    (before := (s.shiftOut .supervisor none).pressHeard .supervisor) hloading hm rfl
  rw [State.request_changed hidle hrole htake, hfinish]
  generalize ((Ev.of { s.inHand .supervisor code with line := l }).enterMode m).s = y at *
  obtain ⟨hanswers, hmodeChanged⟩ := answers_of_marks (body := .accepted)
    (t := { y with alloc := a, push := { s.push with cradleWait := false } }) hentry.marks
  exact {
    answers := hanswers
    modeChanged := hmodeChanged
    line := hentry.line
    push := rfl
    offModes := hentry.offModes
    cancelled := hentry.orders .mode hreason
    heatingEnded := fun hheat => heatingEnded_of_alloc (hentry.heatingEnded hheat) hcoils hqueues hgrants
    plant := fun hcold => by
      have hplant := hentry.plant hcold
      rw [halloc hcold]
      exact hplant }

/-! ## STOP (R171) -/

theorem exec_stop (s : State) : exec (.stop .supervisor) s = .next (s.request .supervisor 0x31 takeStop) := rfl

/-- To STANDBY by way of STOPPING, from a line that is neither at rest nor waiting for a warm restart (R169). -/
theorem takeStop_of_heating {s : State} (hheat : s.line.mode.heating = true) (hstop : s.lines.lineStop = false)
    (hmark : s.line.restartMark = false) :
    takeStop s =
      Taken.accept ((Ev.of s).enterMode (if s.anyWorking then .stopping .standby else .standby)) := by
  have hmode : s.line.mode ≠ .stopping .standby := fun h => by simp [h, Mode.heating] at hheat
  simp only [takeStop, hheat, if_true, Ev.byWayOfStopping, Ev.enterTarget, Ev.changeMode, Ev.of_s, hmode, hmark, hstop,
    Bool.false_and, Bool.false_eq_true, if_false]
  split <;> rfl

theorem exec_stop_refused {s : State} (hidle : Idle s .supervisor) (hheat : s.line.mode.heating = false) :
    exec (.stop .supervisor) s = .next (refused s .supervisor 0x31 .wrongMode) := by
  have htake : takeStop (s.inHand .supervisor 0x31) = Taken.refuse .wrongMode := by simp [takeStop, hheat]
  rw [exec_stop, State.request_refused hidle (by decide) htake]

theorem exec_stop_accepted {s : State} (hidle : Idle s .supervisor) (hheat : s.line.mode.heating = true)
    (hstop : s.lines.lineStop = false) (hmark : s.line.restartMark = false) :
    ∃ t, exec (.stop .supervisor) s = .next t ∧
      RestRequested s t 0x31 s.line (if s.anyWorking then .stopping .standby else .standby) := by
  have htake := takeStop_of_heating (s := s.inHand .supervisor 0x31) hheat hstop hmark
  have hloading : s.line.mode ≠ .loading := fun h => by simp [h, Mode.heating] at hheat
  refine ⟨_, exec_stop s, State.request_atRest hidle (by decide) htake hloading ?_ ?_⟩
  · split <;> rfl
  · rw [hmark]
    split <;> rfl

/-! ## RESET_FAULT (R179) -/

theorem exec_resetFault (s : State) :
    exec (.resetFault .supervisor) s = .next (s.request .supervisor 0x38 takeResetFault) := rfl

/-- The checks of R179 in the statements' words. -/
theorem takeResetFault_eq (s : State) :
    takeResetFault s = (resetRefusal s).elim
      (Taken.accept (((Ev.of s).modLine fun l => { l with stopCauses := StopCauses.none }).changeMode .standby))
      Taken.refuse := by
  have hworking : (s.anyWorking || s.anyNoStop) = inverters.any fun u =>
      (s.channels.get u).state.working || (s.channels.get u).state == .faulted .noStop := by
    rw [Bool.eq_iff_iff]
    simp only [State.anyWorking, State.anyNoStop, State.channel, Bool.or_eq_true, List.any_eq_true, and_or_left,
      exists_or]
  simp only [takeResetFault, resetRefusal, hworking, Option.isSome_iff_ne_none]
  (repeat' split) <;> rfl

/-- The checks passed: in FAULT_STOP, with LINE_STOP deasserted. -/
theorem resetRefusal_eq_none {s : State} (h : resetRefusal s = none) :
    s.line.mode = .faultStop ∧ s.lines.lineStop = false := by
  simp only [resetRefusal] at h
  split at h
  · cases h
  · rename_i hmode
    split at h
    · cases h
    · rename_i hstop
      exact ⟨Decidable.not_not.mp hmode, by simpa using hstop⟩

theorem exec_resetFault_refused {s : State} {r : Reason} (hidle : Idle s .supervisor) (h : resetRefusal s = some r) :
    exec (.resetFault .supervisor) s = .next (refused s .supervisor 0x38 r) := by
  have hinHand : resetRefusal (s.inHand .supervisor 0x38) = some r := h
  have htake : takeResetFault (s.inHand .supervisor 0x38) = Taken.refuse r := by
    rw [takeResetFault_eq, hinHand, Option.elim_some]
  rw [exec_resetFault, State.request_refused hidle (by decide) htake]

theorem exec_resetFault_accepted {s : State} (hidle : Idle s .supervisor) (h : resetRefusal s = none) :
    ∃ t, exec (.resetFault .supervisor) s = .next t ∧
      RestRequested s t 0x38 { s.line with stopCauses := StopCauses.none } .standby := by
  obtain ⟨hmode, hstop⟩ := resetRefusal_eq_none h
  have hinHand : resetRefusal (s.inHand .supervisor 0x38) = none := h
  have htake : takeResetFault (s.inHand .supervisor 0x38) = Taken.accept ((Ev.of { s.inHand .supervisor 0x38 with
      line := { s.line with stopCauses := StopCauses.none } }).enterMode .standby) := by
    have hlevel : (s.inHand .supervisor 0x38).lines.lineStop = false := hstop
    rw [takeResetFault_eq, hinHand, Option.elim_none]
    simp only [Ev.changeMode, Ev.modLine_lines, Ev.of_s, hlevel, Bool.false_and, Bool.false_eq_true, if_false]
    rfl
  exact ⟨_, exec_resetFault s, State.request_atRest hidle (by decide) htake (by simp [hmode]) rfl rfl⟩

/-! ## The statement -/

/-- Settles O32: both requests, when accepted, are one entry into a mode at rest; STOP's ends heating, RESET_FAULT's finds none
to end. -/
theorem stopAndResetFault : Obligations.StopAndResetFault := by
  unfold Obligations.StopAndResetFault
  refine ⟨fun s hidle => ⟨exec_stop_refused hidle, fun hheat hstop hmark => ?_⟩,
    fun s hidle => ⟨fun r hr => exec_resetFault_refused hidle hr, fun hnone => ?_⟩⟩
  · obtain ⟨t, hexec, ht⟩ := exec_stop_accepted hidle hheat hstop hmark
    exact ⟨t, hexec, ht.answers, ht.modeChanged, trackKept_of_offModes ht.offModes, ht.heatingEnded hheat, ht.cancelled,
      ht.push, ht.line⟩
  · obtain ⟨t, hexec, ht⟩ := exec_resetFault_accepted hidle hnone
    obtain ⟨hmode, -⟩ := resetRefusal_eq_none hnone
    have hcold : s.line.mode.heating = false := by rw [hmode]; rfl
    exact ⟨t, hexec, ht.answers, ht.modeChanged, onlyOrdersAndPushes_of_plant ht.offModes (ht.plant hcold),
      ht.cancelled, ht.line⟩

end Sys2Proof.Machine
end
